-- ==== Sys2Proof/Word.lean ====
section
/-!
DEFINITION. The word types of the block and their plainest arithmetic.

Widths: `spec/00_scope.md` R6 (`PIX_W` 8, `LEVEL_W` 8, `SAMPLE_W` 16) and `spec/10_state.md` R21 (32-bit registers).
-/

namespace Sys2Proof

/-- A 32-bit register or command word (R21, R100). -/
abbrev Word := BitVec 32

/-- A palette index, an output level, an opcode byte (R6). -/
abbrev Byte := BitVec 8

/-- An output sample word (R6, `SAMPLE_W`). -/
abbrev Sample := BitVec 16

/-- A one-bit value as a natural: 0 or 1. -/
def bitNat (b : Bool) : Nat := if b then 1 else 0

/-- A one-bit value as a register word: 0 or 1. -/
def bitWord (b : Bool) : Word := if b then 1#32 else 0#32

/-- `|x - y|` of two naturals (R10). -/
def absDiff (x y : Nat) : Nat := (x - y) + (y - x)

end Sys2Proof
end

