-- ==== Sys2Proof/Config.lean ====
section
/-!
DEFINITION. What is fixed for this machine: the scalar parameters of `spec/00_scope.md` R6 at the values R6 gives them
(log 9), and the free values: the palette table, whose contents the spec does not give (`spec/41_pixel_encoder.md` R161,
log 8), and the unspecified sample words (`spec/10_state.md` R49, log 4). The tables of R7, R187 and R191 stand in
`Machine/Tables.lean`.
-/

namespace Sys2Proof.Config

/-- Pixels in a frame-buffer row (R6 `FB_WIDTH`). -/
def fbWidth : Nat := 256
/-- Rows of a frame buffer (R6 `ACTIVE_LINES`). -/
def activeLines : Nat := 240
/-- Level during a sync pulse (R6 `SYNC_LEVEL`). -/
def syncLevel : Byte := 0#8
/-- Blanking level (R6 `BLANK_LEVEL`). -/
def blankLevel : Byte := 20#8
/-- NTSC PostBlank rows (R6 `NTSC_POST_BLANK`). -/
def ntscPostBlank : Nat := 5
/-- NTSC VSync rows (R6 `NTSC_VSYNC`). -/
def ntscVsync : Nat := 3
/-- First PAL ActiveVideo row (R6 `PAL_ACTIVE_FIRST`). -/
def palActiveFirst : Nat := 32
/-- First PAL VSyncBlock row (R6 `PAL_VSYNC_FIRST`). -/
def palVsyncFirst : Nat := 304
/-- Entries of the PAL sync table (R6 `PAL_VSYNC_ROWS`). -/
def palVsyncRows : Nat := 8
/-- Multiplier band, lower end, Hz (R6 `BMIN`). -/
def bMin : Nat := 350000000
/-- Multiplier band, upper end, Hz (R6 `BMAX`). -/
def bMax : Nat := 500000000
/-- Smallest output divider (R6 `ODIV_MIN`). -/
def odivMin : Nat := 0
/-- Largest output divider (R6 `ODIV_MAX`). -/
def odivMax : Nat := 31
/-- The fixed oscillator, Hz (R6 `F_REF`). -/
def fRef : Nat := 40000000
/-- Maximum denominator used by CS.SYNTH (R6 `FRAC_D`). -/
def fracD : Nat := 65536
/-- Integer multiplier range used by CS.SYNTH, lower end, inside (R6 `MUL_MIN`). -/
def mulMin : Nat := 4
/-- Integer multiplier range used by CS.SYNTH, upper end, outside (R6 `MUL_MAX`). -/
def mulMax : Nat := 68
/-- Bytes of one sample word (R6 `SAMPLE_W div 8`). -/
def sampleBytes : Nat := 2
/-- Single-transfer limit of the drain path, bytes (R6 `XFER_LIMIT`). -/
def xferLimit : Nat := 4092
/-- The oscillator frequency at launch (R6 `OSC0`, first part). -/
def osc0Freq : Word := 0#32
/-- The references other consumers hold at launch (R6 `OSC0`, second part). -/
def osc0ExtRefs : Nat := 0

/-- The palette table `PAL_ROM[v][i]` (variant `false` is 0, `true` is 1). Its contents are a parameter the spec does not
give (R9, R161): an uninterpreted constant, so that a claim about the signal is a claim for every table (log 8). -/
opaque palRom : Bool → Byte → BitVec 32

/-- The unspecified sample words (R49): the `n`-th one drawn. Nothing is known of any of them (log 4). -/
opaque freeSample : Nat → Sample

end Sys2Proof.Config
end

