-- ==== Sys2Proof/Syntax.lean ====
section
/-!
DEFINITION. The instructions: one constructor per row of `spec/opcode_table.json` (`spec/30_encoding.md` R104, R107),
and `Encoded`, the two forms an instruction is written in.
-/

namespace Sys2Proof

/-- The eleven host commands (R104), then the eleven micro-operations (R107). Operands that are fields of the command
word stand in the constructor (R102, R103); those taken from `A0..A4` or given by the enclosing operation do not. -/
inductive Instr where
  /-- `NOP` (R250). -/
  | nop
  /-- `INIT std, spcc` (R251); the two fields are plain unsigned numbers (R102). -/
  | init (std spcc : Nat)
  /-- `BEGIN` (R255). -/
  | beginEngine
  /-- `TEARDOWN` (R260). -/
  | teardown
  /-- `GETWB` (R222). -/
  | getwb
  /-- `FBWR row, col` (R224); unsigned 12-bit numbers (R103). -/
  | fbwr (row col : Nat)
  /-- `COMMIT` (R228). -/
  | commit
  /-- `GETFC` (R264). -/
  | getfc
  /-- `GETSC` (R265). -/
  | getsc
  /-- `CS.COARSE` (R131). -/
  | csCoarse
  /-- `CS.FINE` (R135). -/
  | csFine
  /-- `LINE.ACTIVE` (R186). -/
  | lineActive
  /-- `LINE.BLANK` (R188). -/
  | lineBlank
  /-- `LINE.VSYNC` (R189). -/
  | lineVsync
  /-- `LINE.PALSYNC` (R190). -/
  | linePalsync
  /-- `PE.ENC_N3` (R164). -/
  | peEncN3
  /-- `PE.ENC_N4` (R165). -/
  | peEncN4
  /-- `PE.ENC_P4` (R166). -/
  | peEncP4
  /-- `SEQ.ADVANCE` (R194). -/
  | seqAdvance
  /-- `FB.ALLOC` (R221). -/
  | fbAlloc
  /-- `CS.APPLY` (R142). -/
  | csApply
  /-- `CS.SYNTH` (R140). -/
  | csSynth
deriving DecidableEq, Repr

/-- How an instruction is written: a host command as the 32-bit word written to `CMD` (R100), a micro-operation as its
8-bit code (R106). -/
inductive Encoded where
  | command (w : Word)
  | micro (code : Byte)
deriving DecidableEq, Repr

end Sys2Proof
end

