-- ==== Sys2Proof/WellFormed.lean ====
section
/-!
DEFINITION. Which terms of `Instr` an encoding exists for: every field fits the bits its format gives it
(`spec/30_encoding.md` R102, R103).
-/

namespace Sys2Proof

/-- `STD` and `SPCC` are 8-bit fields (R102), `ROW` and `COL` 12-bit fields (R103); no other instruction has a field. -/
def Instr.wellFormed : Instr → Bool
  | .init std spcc => decide (std < 256) && decide (spcc < 256)
  | .fbwr row col => decide (row < 4096) && decide (col < 4096)
  | .nop | .beginEngine | .teardown | .getwb | .commit | .getfc | .getsc | .csCoarse | .csFine => true
  | .lineActive | .lineBlank | .lineVsync | .linePalsync | .peEncN3 | .peEncN4 | .peEncP4 => true
  | .seqAdvance | .fbAlloc | .csApply | .csSynth => true

end Sys2Proof
end

