-- ==== Sys2Proof/Decode.lean ====
section
/-!
DEFINITION. The decoder, total on every command word and every micro-operation code, and after it the encoder, both
written from `spec/30_encoding.md` R100 to R108.
-/

namespace Sys2Proof

/-- Why a word or a code is no instruction (R108). -/
inductive DecodeError where
  /-- An `OP` that is none of the eleven of R104. -/
  | unknownOpcode (op : Byte)
  /-- A format `Z` word with `IMM != 0`. -/
  | nonzeroImmediate (op : Byte)
  /-- An `INIT` word with bits `[23:16] != 0`. -/
  | reservedInitBits
  /-- A micro-operation code that is none of the eleven of R107. -/
  | unknownMicroCode (code : Byte)
deriving DecidableEq, Repr

/-- `OP`, bits `[31:24]` of a command word (R100). -/
def opField (w : Word) : Byte := w.extractLsb' 24 8
/-- `IMM`, bits `[23:0]` (R100). -/
def immField (w : Word) : BitVec 24 := w.extractLsb' 0 24
/-- Bits `[23:16]`, which `INIT` requires to be 0 (R102). -/
def initReservedField (w : Word) : Byte := w.extractLsb' 16 8
/-- `SPCC`, bits `[15:8]` of an `INIT` word (R102). -/
def spccField (w : Word) : Byte := w.extractLsb' 8 8
/-- `STD`, bits `[7:0]` of an `INIT` word (R102). -/
def stdField (w : Word) : Byte := w.extractLsb' 0 8
/-- `ROW`, bits `[23:12]` of an `FBWR` word (R103). -/
def rowField (w : Word) : BitVec 12 := w.extractLsb' 12 12
/-- `COL`, bits `[11:0]` of an `FBWR` word (R103). -/
def colField (w : Word) : BitVec 12 := w.extractLsb' 0 12

/-- Format `Z`: the immediate must be 0 (R101). -/
def decodeZ (i : Instr) (w : Word) : Except DecodeError Instr :=
  if immField w = 0#24 then .ok i else .error (.nonzeroImmediate (opField w))

/-- Format `I`: bits `[23:16]` must be 0; any `STD` and `SPCC` decode (R102). -/
def decodeI (w : Word) : Except DecodeError Instr :=
  if initReservedField w = 0#8 then .ok (.init (stdField w).toNat (spccField w).toNat) else .error .reservedInitBits

/-- Format `P`: every `ROW` and `COL` decode (R103). -/
def decodeP (w : Word) : Except DecodeError Instr :=
  .ok (.fbwr (rowField w).toNat (colField w).toNat)

/-- The host command a word written to `CMD` stands for: `OP` first, then `IMM` against the opcode's format (R100, R104);
every other word is rejected by name (R108). -/
def decodeCommand (w : Word) : Except DecodeError Instr :=
  match (opField w).toNat with
  | 0x00 => decodeZ .nop w
  | 0x01 => decodeI w
  | 0x02 => decodeZ .beginEngine w
  | 0x03 => decodeZ .teardown w
  | 0x10 => decodeZ .getwb w
  | 0x11 => decodeP w
  | 0x12 => decodeZ .commit w
  | 0x13 => decodeZ .getfc w
  | 0x14 => decodeZ .getsc w
  | 0x20 => decodeZ .csCoarse w
  | 0x21 => decodeZ .csFine w
  | _ => .error (.unknownOpcode (opField w))

/-- The micro-operation an 8-bit code stands for (R106, R107). -/
def decodeMicro (code : Byte) : Except DecodeError Instr :=
  match code.toNat with
  | 0x80 => .ok .lineActive
  | 0x81 => .ok .lineBlank
  | 0x82 => .ok .lineVsync
  | 0x83 => .ok .linePalsync
  | 0x88 => .ok .peEncN3
  | 0x89 => .ok .peEncN4
  | 0x8A => .ok .peEncP4
  | 0x90 => .ok .seqAdvance
  | 0xA0 => .ok .fbAlloc
  | 0xA1 => .ok .csApply
  | 0xA2 => .ok .csSynth
  | _ => .error (.unknownMicroCode code)

/-- The decoder on both written forms. -/
def decode : Encoded → Except DecodeError Instr
  | .command w => decodeCommand w
  | .micro code => decodeMicro code

/-- A format `Z` word: `OP << 24` (R101). -/
def wordZ (op : Byte) : Word := op ++ 0#24

/-- A format `I` word: `0x01`, 0, `SPCC`, `STD` from the top (R102). -/
def wordI (std spcc : Nat) : Word := 0x01#8 ++ 0#8 ++ BitVec.ofNat 8 spcc ++ BitVec.ofNat 8 std

/-- A format `P` word: `0x11`, `ROW`, `COL` from the top (R103). -/
def wordP (row col : Nat) : Word := 0x11#8 ++ BitVec.ofNat 12 row ++ BitVec.ofNat 12 col

/-- The written form of an instruction (R101 to R107). -/
def encode : Instr → Encoded
  | .nop => .command (wordZ 0x00#8)
  | .init std spcc => .command (wordI std spcc)
  | .beginEngine => .command (wordZ 0x02#8)
  | .teardown => .command (wordZ 0x03#8)
  | .getwb => .command (wordZ 0x10#8)
  | .fbwr row col => .command (wordP row col)
  | .commit => .command (wordZ 0x12#8)
  | .getfc => .command (wordZ 0x13#8)
  | .getsc => .command (wordZ 0x14#8)
  | .csCoarse => .command (wordZ 0x20#8)
  | .csFine => .command (wordZ 0x21#8)
  | .lineActive => .micro 0x80#8
  | .lineBlank => .micro 0x81#8
  | .lineVsync => .micro 0x82#8
  | .linePalsync => .micro 0x83#8
  | .peEncN3 => .micro 0x88#8
  | .peEncN4 => .micro 0x89#8
  | .peEncP4 => .micro 0x8A#8
  | .seqAdvance => .micro 0x90#8
  | .fbAlloc => .micro 0xA0#8
  | .csApply => .micro 0xA1#8
  | .csSynth => .micro 0xA2#8

/-- The written form a row of the opcode table numbers: 32 bits are a command word, 8 bits a micro-operation code. There
is no byte order inside either (R100, R106). -/
def tableForm (nbits w : Nat) : Option Encoded :=
  if nbits = 32 ∧ w < 2 ^ 32 then some (.command (BitVec.ofNat 32 w))
  else if nbits = 8 ∧ w < 2 ^ 8 then some (.micro (BitVec.ofNat 8 w))
  else none

/-- The instruction the decoder reads from an opcode-table word; none where it refuses. -/
def decodeTableWord (nbits w : Nat) : Option Instr :=
  (tableForm nbits w).bind fun e => (decode e).toOption

end Sys2Proof
end

