-- ==== Sys2Proof/Machine/State.lean ====
section
/-!
DEFINITION. The state of the block (`spec/10_state.md` R20 to R51), as plain data; the moves and statements the model
holds for the agents (log 1); why a step can stop; the state after reset (R50).
-/

namespace Sys2Proof.Machine

open Sys2Proof

/-- `phase` (R28). Its three-bit code is `phaseBits` (`Machine/Flags.lean`). -/
inductive Phase where
  | unconfigured
  | configured
  | active
  | halted
deriving DecidableEq, Repr

/-- The three operating modes (`spec/00_scope.md` R2, `spec/10_state.md` R29). -/
inductive Mode where
  | ntsc3
  | ntsc4
  | pal4
deriving DecidableEq, Repr

/-- The TimingProfile: twelve fields of 16 bits (`spec/00_scope.md` R7, `spec/10_state.md` R29). Widths and offsets count
samples. -/
structure Profile where
  std : BitVec 16
  spcc : BitVec 16
  spp : BitVec 16
  lineWidth : BitVec 16
  totalLines : BitVec 16
  activeLines : BitVec 16
  hsync : BitVec 16
  hsyncLong : BitVec 16
  hsyncShort : BitVec 16
  burstStart : BitVec 16
  burstWidth : BitVec 16
  activeStart : BitVec 16
deriving DecidableEq, Repr

/-- Every field 0 (R29, R50). -/
def Profile.zero : Profile := ⟨0, 0, 0, 0, 0, 0, 0, 0, 0, 0, 0, 0⟩

/-- The coefficients of a plan: divider, integer multiplier, fractional numerator and denominator (R30, R44). -/
structure Coeffs where
  d : BitVec 8
  n : Word
  b : Word
  a : Word
deriving DecidableEq, Repr

/-- The ClockPlan (R30). -/
structure Plan where
  valid : Bool
  target : Word
  d : BitVec 8
  n : Word
  b : Word
  a : Word
  realFreq : Word
deriving DecidableEq, Repr

/-- `plan.valid = 0` and every other field 0 (R30, R50). -/
def Plan.zero : Plan := ⟨false, 0, 0, 0, 0, 0, 0⟩

/-- The operands of a micro-operation that stands alone: the names of R186 (`j`, `row`, `parity`), R190 (`t`),
R221 (`h`) and R140 (`target`). The model's own (log 3). -/
structure MicroOperands where
  j : Bool
  row : Nat
  parity : Bool
  t : Nat
  h : Bool
  target : Word
deriving DecidableEq, Repr

/-- Every operand 0 (log 3). -/
def MicroOperands.zero : MicroOperands := ⟨false, 0, false, 0, false, 0⟩

/-- The pair CS.APPLY returns (R142): status 1 or 2, and the frequency in force. -/
structure ApplyResult where
  status : Word
  freq : Word
deriving DecidableEq, Repr

/-- One statement of the producer: one register access (R27, R80). A write to register 0, `CMD`, issues a command. -/
inductive ProdOp where
  | read (n : Nat)
  | write (n : Nat) (v : Word)
deriving DecidableEq, Repr

/-- One turn of one agent (R13, R80): the producer's, a line-completion event (R181), a move of another oscillator
consumer (R303), reset (R321); and `micro`, the model's own, one micro-operation standing alone (log 3). -/
inductive Move where
  | producer
  | tick
  | extAcq
  | extRel
  | extCfg (f : Word)
  | reset
  | micro (code : Byte) (ops : MicroOperands)
deriving DecidableEq, Repr

/-- The contents of one frame buffer: (index, byte) pairs with strictly rising index, the index of (row, col) being
`row * FB_WIDTH + col` (R71, log 16). An index not listed holds an unspecified value (R49). -/
abbrev Memory := List Host.Cell

/-- The contents of one sample buffer by position; `none` is an unspecified value (R43, R49, log 4). -/
abbrev Line := List (Option Sample)

/-- Why a step stops with a fault: an access to an element the spec says does not exist (log 7). SAFE: the spec's rules
access no such element (R289), so nothing the hardware does is cut off, and a claim that needs the access is unprovable. -/
inductive Fault where
  /-- Raised by FBWR and the pixel encoders for a frame-buffer element while `fbValid = 0`, or a row the buffer does not
  have (R42: "While `fbValid = 0` no element exists and no rule reads or writes one"). SAFE. -/
  | noFrameBuffer
  /-- Raised by the line operations, the pixel encoders and TICK for a sample-buffer position while `sbValid = 0`, or past
  its end (R43, R72). SAFE. -/
  | noSampleBuffer
  /-- Raised by LINE.ACTIVE and LINE.PALSYNC for an index outside BURST_ROM (R187) or PALSYNC_ROM (R191). SAFE. -/
  | noTableEntry
deriving DecidableEq, Repr

/-- Why a step is refused. -/
inductive Refusal where
  /-- Raised by `exec` for an instruction with no meaning yet. SAFE. -/
  | notModelled (mnemonic : String)
  /-- Raised by a `micro` move whose code is no micro-operation (R107). The move is the model's own (log 3). SAFE. -/
  | unknownMicroCode (code : Byte)
deriving DecidableEq, Repr

/-- The state. One-bit items are `Bool` (`false` is 0); handles and buffer numbers too (0 "buffer A" is `false`). -/
structure State where
  /-- A0..A4 (R21). -/
  a0 : Word
  a1 : Word
  a2 : Word
  a3 : Word
  a4 : Word
  /-- R0..R4 (R22). -/
  r0 : Word
  r1 : Word
  r2 : Word
  r3 : Word
  r4 : Word
  /-- FAULT (R25). -/
  fault : Word
  /-- LASTERR (R26). -/
  lastErr : Word
  /-- `phase` (R28). -/
  phase : Phase
  /-- `std`, `spcc`, `profileValid`, `prof` (R29). -/
  std : BitVec 1
  spcc : BitVec 3
  profileValid : Bool
  prof : Profile
  /-- `plan` (R30). -/
  plan : Plan
  /-- BufferExchangeState (R31 to R34). -/
  lineCounter : BitVec 16
  frameCount : Word
  swapCount : Word
  ready : Bool
  /-- Double-buffer pointer and handshake (R35 to R37). -/
  frontSel : Bool
  wakePending : Bool
  prodWaiting : Bool
  /-- The sequencer's own (R38 to R41). -/
  fillSel : Bool
  tickEnable : Bool
  outEnable : Bool
  oscHeld : Bool
  /-- FB[0], FB[1], `fbValid` (R42). -/
  fb0 : Memory
  fb1 : Memory
  fbValid : Bool
  /-- SB[0], SB[1], `sbValid` (R43). -/
  sb0 : Line
  sb1 : Line
  sbValid : Bool
  /-- The shared oscillator resource (R44). -/
  oscFreq : Word
  oscExtRefs : Nat
  oscPlan : Coeffs
  /-- OUT, oldest line first (R51). -/
  out : List (List Sample)
  /-- MODEL'S OWN: how many unspecified samples have been drawn (log 4). -/
  draws : Nat
  /-- MODEL'S OWN: the word the latest register read returned to the producer (log 10). -/
  rdata : Word
  /-- MODEL'S OWN: operands and returned pair of a micro-operation standing alone (log 3). -/
  uop : MicroOperands
  uopResult : ApplyResult
  /-- MODEL'S OWN: the producer's whole program, which a reset starts over (R321), and its statements still to issue, in
  program order (log 1). -/
  program : List ProdOp
  prog : List ProdOp
  /-- MODEL'S OWN: the moves still to come, first to come first (log 1). -/
  sched : List Move
deriving DecidableEq, Repr

/-- The state right after reset at launch (R50, R320): every register and one-bit item 0, no buffer, OUT empty, the
oscillator at `OSC0` (R44). The model's own fields are empty or 0 (log 5, DESIGN CHOICE). -/
def State.reset : State where
  a0 := 0
  a1 := 0
  a2 := 0
  a3 := 0
  a4 := 0
  r0 := 0
  r1 := 0
  r2 := 0
  r3 := 0
  r4 := 0
  fault := 0
  lastErr := 0
  phase := .unconfigured
  std := 0
  spcc := 0
  profileValid := false
  prof := Profile.zero
  plan := Plan.zero
  lineCounter := 0
  frameCount := 0
  swapCount := 0
  ready := false
  frontSel := false
  wakePending := false
  prodWaiting := false
  fillSel := false
  tickEnable := false
  outEnable := false
  oscHeld := false
  fb0 := []
  fb1 := []
  fbValid := false
  sb0 := []
  sb1 := []
  sbValid := false
  oscFreq := Config.osc0Freq
  oscExtRefs := Config.osc0ExtRefs
  oscPlan := ⟨0, 0, 0, 0⟩
  out := []
  draws := 0
  rdata := 0
  uop := MicroOperands.zero
  uopResult := ⟨0, 0⟩
  program := []
  prog := []
  sched := []

end Sys2Proof.Machine
end

