-- ==== Sys2Proof/Machine/Flags.lean ====
section
/-!
DEFINITION. The packed words made of flags and codes: `STATUS` (`spec/10_state.md` R24), the code of `phase` (R28), the
`FAULT` word (R25) and the `LASTERR` word (R26). The block has no arithmetic condition codes (R46).
-/

namespace Sys2Proof.Machine

open Sys2Proof

/-- The three-bit code of `phase` (R28). -/
def phaseBits : Phase → BitVec 3
  | .unconfigured => 0#3
  | .configured => 1#3
  | .active => 2#3
  | .halted => 7#3

/-- `STATUS`, from bit 31 down: 14 zero bits, PROFVALID, OSCHELD, SPCC, STD, SBVALID, FBVALID, OUTEN, TICKEN, WAKE,
FILLSEL, FRONT, READY, PLANVALID, PHASE (R24). -/
def statusWord (s : State) : Word :=
  0#14 ++ BitVec.ofBool s.profileValid ++ BitVec.ofBool s.oscHeld ++ s.spcc ++ s.std ++ BitVec.ofBool s.sbValid ++
    BitVec.ofBool s.fbValid ++ BitVec.ofBool s.outEnable ++ BitVec.ofBool s.tickEnable ++ BitVec.ofBool s.wakePending ++
    BitVec.ofBool s.fillSel ++ BitVec.ofBool s.frontSel ++ BitVec.ofBool s.ready ++ BitVec.ofBool s.plan.valid ++
    phaseBits s.phase

/-- The fatal errors (`spec/60_exceptions.md` R280). -/
inductive FatalError where
  | configurationError
  | ownershipViolation
  | boundsViolation
  | illegalCommand
deriving DecidableEq, Repr

/-- `FAULT.CODE` of a fatal error (R25, R280). -/
def fatalCode : FatalError → BitVec 4
  | .configurationError => 1#4
  | .ownershipViolation => 4#4
  | .boundsViolation => 5#4
  | .illegalCommand => 6#4

/-- The `FAULT` word: `[15:12]` CAUSE, `[11:4]` OPCODE, `[3:0]` CODE, the rest 0 (R25). -/
def faultWord (e : FatalError) (opcode : Byte) (cause : BitVec 4) : Word :=
  0#16 ++ cause ++ opcode ++ fatalCode e

/-- The outcomes a completed command reports in `LASTERR` (R26, R280). -/
inductive Report where
  | done
  | resourceBusy
  | infeasible
deriving DecidableEq, Repr

/-- The `LASTERR` word: `[3:0]` CODE, the rest 0 (R26). -/
def reportWord : Report → Word
  | .done => 0#32
  | .resourceBusy => 2#32
  | .infeasible => 3#32

end Sys2Proof.Machine
end

