-- ==== Sys2Proof/Machine/Tables.lean ====
section
/-!
DEFINITION. The parameter tables of the block: the profile of each mode (`spec/00_scope.md` R7), the target frequencies
(R6), BURST_ROM (`spec/42_scan_timing_engine.md` R187), PALSYNC_ROM (R191), and the well-formedness of a profile (R8).
-/

namespace Sys2Proof.Machine

open Sys2Proof

/-- The mode of a `(STD, SPCC)` pair: (0,3), (0,4), (1,4) and no other (`spec/10_state.md` R29,
`spec/44_engine_lifecycle.md` R252). -/
def modeOf (std spcc : Nat) : Option Mode :=
  if std = 0 ∧ spcc = 3 then some .ntsc3
  else if std = 0 ∧ spcc = 4 then some .ntsc4
  else if std = 1 ∧ spcc = 4 then some .pal4
  else none

/-- The column of R7 for a mode. -/
def profileOf : Mode → Profile
  | .ntsc3 =>
    { std := 0, spcc := 3, spp := 2, lineWidth := 684, totalLines := 262, activeLines := 240, hsync := 48,
      hsyncLong := 630, hsyncShort := 0, burstStart := 48, burstWidth := 30, activeStart := 114 }
  | .ntsc4 =>
    { std := 0, spcc := 4, spp := 3, lineWidth := 912, totalLines := 262, activeLines := 240, hsync := 64,
      hsyncLong := 840, hsyncShort := 0, burstStart := 64, burstWidth := 40, activeStart := 144 }
  | .pal4 =>
    { std := 1, spcc := 4, spp := 3, lineWidth := 1136, totalLines := 312, activeLines := 240, hsync := 80,
      hsyncLong := 536, hsyncShort := 32, burstStart := 96, burstWidth := 44, activeStart := 272 }

/-- `TARGET_HZ[mode]` (R6). -/
def targetHz : Mode → Nat
  | .ntsc3 => 10738636
  | .ntsc4 => 14318182
  | .pal4 => 17734475

/-- The row `BURST_ROM[mode][parity]`: the levels of one burst cycle, phase 0 first (R187). NTSC has the row of parity 0
only. -/
def burstRom : Mode → Bool → Option (List Byte)
  | .ntsc3, false => some [20, 28, 12]
  | .ntsc4, false => some [20, 30, 20, 10]
  | .pal4, false => some [27, 13, 13, 27]
  | .pal4, true => some [13, 13, 27, 27]
  | .ntsc3, true => none
  | .ntsc4, true => none

/-- `PALSYNC_ROM[t]`, `t` in 0..7: bit 1 the first half's pulse long, bit 0 the second half's (R191). -/
def palSyncRom (t : Nat) : Option (BitVec 2) :=
  ([0, 0, 0, 3, 3, 2, 0, 0] : List (BitVec 2))[t]?

/-- The condition of R8 that `INIT` checks as cause 2: the sample buffer fits one transfer of the drain path (R252). -/
def fitsTransfer (p : Profile) : Bool :=
  decide (p.lineWidth.toNat * Config.sampleBytes ≤ Config.xferLimit)

/-- The conditions of R8 on the line: alignment to color clocks, order and fit of the parts, sync widths. R8 states the
sync widths for `std` 0 and 1 only; a profile of any other `std` is held to those of 1 (DESIGN CHOICE, log 18). -/
def lineShapeOk (p : Profile) : Bool :=
  decide (p.lineWidth.toNat % p.spcc.toNat = 0) && decide (p.burstStart.toNat % p.spcc.toNat = 0) &&
  decide (p.activeStart.toNat % p.spcc.toNat = 0) && decide (p.hsync.toNat ≤ p.burstStart.toNat) &&
  decide (p.burstStart.toNat + p.burstWidth.toNat ≤ p.activeStart.toNat) &&
  decide (p.activeStart.toNat + Config.fbWidth * p.spp.toNat ≤ p.lineWidth.toNat) &&
  (if p.std.toNat = 0 then decide (p.hsyncLong.toNat ≤ p.lineWidth.toNat)
   else decide (p.lineWidth.toNat % 2 = 0) && decide (p.hsyncLong.toNat ≤ p.lineWidth.toNat / 2) &&
     decide (p.hsyncShort.toNat ≤ p.lineWidth.toNat / 2))

/-- The conditions of R8 on the field: the row ranges fit `totalLines`. `totalLines < 2^LC_W` holds by the width. R8 states
the row ranges for `std` 0 and 1 only; a profile of any other `std` is held to those of 1 (DESIGN CHOICE, log 18). -/
def fieldShapeOk (p : Profile) : Bool :=
  (if p.std.toNat = 0 then
     decide (p.activeLines.toNat + Config.ntscPostBlank + Config.ntscVsync ≤ p.totalLines.toNat)
   else
     decide (Config.palActiveFirst + p.activeLines.toNat ≤ Config.palVsyncFirst) &&
     decide (Config.palVsyncFirst < p.totalLines.toNat) &&
     decide (p.totalLines.toNat - Config.palVsyncFirst ≤ Config.palVsyncRows)) &&
  decide (p.activeLines.toNat = Config.activeLines) && decide (p.totalLines.toNat < 2 ^ 16)

/-- A TimingProfile is well formed (R8). -/
def wellFormedProfile (p : Profile) : Bool := fitsTransfer p && lineShapeOk p && fieldShapeOk p

end Sys2Proof.Machine
end

