-- ==== Sys2Proof/Machine/Operands.lean ====
section
/-!
DEFINITION. Where an operation's operands come from: the argument registers (`spec/10_state.md` R21), the mode (R29), the
fields of `prof` as counts, and the named buffers.
-/

namespace Sys2Proof.Machine

open Sys2Proof

/-- The pixel value of `FBWR`: `A0[7:0]` (`spec/30_encoding.md` R103). -/
def fbwrPixel (s : State) : Byte := s.a0.extractLsb' 0 8

/-- The handle of `FBWR`: `A1[0]` (R103). -/
def fbwrHandle (s : State) : Bool := s.a1.getLsbD 0

/-- `mode`, the pair `(std, spcc)`; none while no configuration is latched (`spec/10_state.md` R29). -/
def stateMode (s : State) : Option Mode := modeOf s.std.toNat s.spcc.toNat

/-- `prof.lineWidth` as a count of samples. -/
def lineWidth (s : State) : Nat := s.prof.lineWidth.toNat

/-- `oscRefs = oscExtRefs + oscHeld` (R44). -/
def oscRefs (s : State) : Nat := s.oscExtRefs + bitNat s.oscHeld

/-- Frame buffer `FB[h]`. -/
def fbOf (s : State) (h : Bool) : Memory := if h then s.fb1 else s.fb0

/-- Sample buffer `SB[j]`. -/
def sbOf (s : State) (j : Bool) : Line := if j then s.sb1 else s.sb0

end Sys2Proof.Machine
end

