-- ==== Sys2Proof/Machine/Ops.lean ====
section
/-!
DEFINITION. The operations every meaning is made of: sequencing, the frame-buffer memory, the sample buffers, the end of a
command, taking a fatal error and the reset that is the only way out of it, the oscillator reference, the register file.
-/

namespace Sys2Proof.Machine

open Sys2Proof

/-- What a meaning answers. -/
abbrev Result := Host.Outcome State Fault Refusal

/-- Do `k` after `o`, if `o` answered a next state. -/
def andThen (o : Result) (k : State → Result) : Result :=
  match o with
  | .next s => k s
  | .fault f => .fault f
  | .refused r => .refused r

/-! ### Frame-buffer memory (`spec/20_memory.md` R71) -/

/-- The index of element (row, col) of a frame buffer (log 16). -/
def fbIndex (row col : Nat) : Nat := row * Config.fbWidth + col

/-- What an element not listed reads as: no value, that is, an unspecified value (R49, log 4). -/
def unlistedElement : Option Byte := none

/-- One element of a frame buffer: its byte, or `unlistedElement`. -/
def memRead : Memory → Nat → Option Byte
  | [], _ => unlistedElement
  | (k, v) :: m, i => if k = i then some v else if i < k then unlistedElement else memRead m i

/-- `MemWrite` of one element (R11), keeping the list sorted and without repeats. -/
def memWrite : Memory → Nat → Byte → Memory
  | [], i, v => [(i, v)]
  | (k, x) :: m, i, v =>
    if i < k then (i, v) :: (k, x) :: m else if i = k then (i, v) :: m else (k, x) :: memWrite m i v

/-- The canonical form: indices strictly rising. No entry equals what an unlisted index reads as, since that is no value. -/
def memWf : Memory → Bool
  | [] => true
  | [_] => true
  | (k, _) :: (k', v') :: m => decide (k < k') && memWf ((k', v') :: m)

/-- The canonical form of a memory, under the name the statements use. -/
abbrev Memory.wf (m : Memory) : Prop := memWf m = true

/-- `FB[h][row][col]` read as one element (R11): the model's read of one byte. -/
def fbRead (s : State) (h : Bool) (row col : Nat) : Option Byte := memRead (fbOf s h) (fbIndex row col)

/-- Replace the contents of `FB[h]`. -/
def setFb (s : State) (h : Bool) (m : Memory) : State :=
  { s with fb0 := if h then s.fb0 else m, fb1 := if h then m else s.fb1 }

/-- Row `row` of a frame buffer exists: the buffers are allocated and have that row (R42, R221). -/
def fbRowExists (s : State) (row : Nat) : Bool := s.fbValid && decide (row < s.prof.activeLines.toNat)

/-! ### Sample buffers (`spec/20_memory.md` R72) -/

/-- `LEVEL(v) = zext_16(v) << 8` (`spec/00_scope.md` R11). -/
def levelWord (v : Byte) : Sample := v.zeroExtend 16 <<< 8

/-- The line with position `s` in `lo .. hi-1` replaced by `f s`, the positions counted from `i`. -/
def writeFrom (i lo hi : Nat) (f : Nat → Option Sample) : Line → Line
  | [] => []
  | x :: xs => (if lo ≤ i ∧ i < hi then f i else x) :: writeFrom (i + 1) lo hi f xs

/-- Replace the contents of `SB[j]`. -/
def setSb (s : State) (j : Bool) (l : Line) : State :=
  { s with sb0 := if j then s.sb0 else l, sb1 := if j then l else s.sb1 }

/-- Every position of `lo .. hi-1` of `SB[j]` exists (R43); an empty range asks for nothing. -/
def sbRangeExists (s : State) (j : Bool) (lo hi : Nat) : Bool :=
  decide (hi ≤ lo) || (s.sbValid && decide (hi ≤ (sbOf s j).length))

/-- `for s in lo .. hi-1: SB[j][s] <- f s`, a position that does not exist being a fault (log 7). -/
def writeSamples (j : Bool) (lo hi : Nat) (f : Nat → Option Sample) (s : State) : Result :=
  if sbRangeExists s j lo hi then .next (setSb s j (writeFrom 0 lo hi f (sbOf s j))) else .fault .noSampleBuffer

/-- `FILL(j, lo, hi, v)` (`spec/00_scope.md` R11). -/
def fill (j : Bool) (lo hi : Nat) (v : Byte) (s : State) : Result :=
  writeSamples j lo hi (fun _ => some (levelWord v)) s

/-! ### The end of a command, and fatal errors -/

/-- A host command completes: `LASTERR` is written (`spec/10_state.md` R26). -/
def finish (r : Report) (s : State) : State := { s with lastErr := reportWord r }

/-- Taking a fatal error, the block's trap entry (`spec/60_exceptions.md` R281): `FAULT` latches code, opcode and cause,
the block halts, the interrupt is disabled, and nothing else changes. No address is saved and no handler runs. -/
def raiseFatal (e : FatalError) (opcode : Byte) (cause : BitVec 4) (s : State) : State :=
  { s with fault := faultWord e opcode cause, phase := .halted, tickEnable := false }

/-- While `phase = HALTED` a command is ignored (R287); this check comes before every other (R288). -/
def unlessHalted (s : State) (k : Result) : Result := if s.phase = .halted then .next s else k

/-! ### The shared oscillator resource -/

/-- Give up the block's reference, if it holds one; the last release unconfigures the resource: step T2 of TEARDOWN
(`spec/44_engine_lifecycle.md` R261) and reset (`spec/60_exceptions.md` R303, last paragraph). -/
def dropReference (s : State) : State :=
  { s with oscHeld := false, oscFreq := if s.oscHeld = true ∧ s.oscExtRefs = 0 then 0 else s.oscFreq }

/-- `EXT.ACQ` (R303). -/
def extAcquire (s : State) : State := { s with oscExtRefs := s.oscExtRefs + 1 }

/-- `EXT.REL` (R303); not enabled without a reference, and then nothing changes (log 12). -/
def extRelease (s : State) : State :=
  if s.oscExtRefs = 0 then s
  else { s with
    oscExtRefs := s.oscExtRefs - 1
    oscFreq := if s.oscExtRefs - 1 = 0 ∧ s.oscHeld = false then 0 else s.oscFreq }

/-- `EXT.CFG f` (R303); enabled for a holder and `f > 0` only, else nothing changes (log 12). -/
def extConfigure (f : Word) (s : State) : State :=
  if s.oscExtRefs = 0 ∨ f = 0 then s
  else if s.oscFreq = f then s
  else if s.oscFreq ≠ 0 ∧ 1 < oscRefs s then s
  else { s with oscFreq := f }

/-! ### Reset, the only return from a fatal error -/

/-- Reset (`spec/70_reset_and_hazards.md` R320): every piece of the block's state at its value of R50, the oscillator
reference dropped and the rest of the resource left alone (R303). The producer's program starts over (R321); the model's
own `draws` and `sched` go on (log 13). -/
def resetBlock (s : State) : State :=
  { State.reset with
    oscFreq := (dropReference s).oscFreq
    oscExtRefs := s.oscExtRefs
    oscPlan := s.oscPlan
    draws := s.draws
    program := s.program
    prog := s.program
    sched := s.sched }

/-! ### The register file (`spec/10_state.md` R27) -/

/-- What a read of register number `n` returns; numbers 14 and above do not exist and read 0 (R27), and so does the
write-only `CMD` (R23). A read changes nothing (`spec/20_memory.md` R79). -/
def readReg (s : State) (n : Nat) : Word :=
  match n with
  | 1 => statusWord s
  | 2 => s.fault
  | 3 => s.lastErr
  | 4 => s.a0
  | 5 => s.a1
  | 6 => s.a2
  | 7 => s.a3
  | 8 => s.a4
  | 9 => s.r0
  | 10 => s.r1
  | 11 => s.r2
  | 12 => s.r3
  | 13 => s.r4
  | _ => 0

/-- A write of a register other than `CMD`: `A0..A4` store the word (R21); the read-only registers and the numbers 14 and
above ignore it (R22, R24 to R27, log 6). -/
def writeArgument (s : State) (n : Nat) (v : Word) : State :=
  match n with
  | 4 => { s with a0 := v }
  | 5 => { s with a1 := v }
  | 6 => { s with a2 := v }
  | 7 => { s with a3 := v }
  | 8 => { s with a4 := v }
  | _ => s

end Sys2Proof.Machine
end

