-- ==== Sys2Proof/Machine/ClockSynth.lean ====
section
/-!
DEFINITION. The ClockSynthesizer (`spec/40_clock_synthesizer.md`): CS.COARSE, CS.FINE, CS.SYNTH, CS.APPLY. Integers only,
every intermediate value exact (R130).
-/

namespace Sys2Proof.Machine

open Sys2Proof

/-! ### Coarse search -/

/-- `K(d) = 2·(d+2)` (R132). -/
def ratioK (d : Nat) : Nat := 2 * (d + 2)

/-- `BMIN <= t·K(d) <= BMAX` (R132). -/
def inBand (t d : Nat) : Bool := decide (Config.bMin ≤ t * ratioK d) && decide (t * ratioK d ≤ Config.bMax)

/-- `COARSE(t)`: the least divider of the range whose multiplied frequency lies in the band; none when there is none or
`t = 0` (R132). -/
def coarse (t : Nat) : Option Nat :=
  if t = 0 then none
  else (List.range' Config.odivMin (Config.odivMax + 1 - Config.odivMin)).find? (inBand t)

/-- CS.COARSE (R131). -/
def execCsCoarse (s : State) : Result :=
  unlessHalted s <|
    match coarse s.a0.toNat with
    | none => .next (finish .infeasible { s with r0 := 0, r1 := 0, r2 := 0 })
    | some d =>
      .next (finish .done
        { s with r0 := 1, r1 := BitVec.ofNat 32 d, r2 := BitVec.ofNat 32 (s.a0.toNat * ratioK d) })

/-! ### Fine fractional search -/

/-- What `FINE` returns: `(f, n, b, a)`; `f = 0` is the failure sentinel (R138). -/
structure FineResult where
  f : Nat
  n : Nat
  b : Nat
  a : Nat
deriving DecidableEq, Repr

/-- `CARRY(r, t, D)`: `r/t` lies above `1 - 1/(2(D-1))`, tested exactly; no carry at equality (R136). The source leaves
the boundary open (U16); this is the default predicate (log 15). -/
def carries (r t dmax : Nat) : Bool := decide ((2 * (dmax - 1) - 1) * t < 2 * (dmax - 1) * r)

/-- The integer nearest to `r·c/t`, a half rounding up (R137, `bc`). -/
def nearestNumerator (r t c : Nat) : Nat := (2 * r * c + t) / (2 * t)

/-- `|t·bc - r·c|` for the nearest numerator of `c` (R137, `e`). -/
def fineError (r t c : Nat) : Nat := absDiff (t * nearestNumerator r t c) (r * c)

/-- The scan of R137 over the candidates `dmax-k .. dmax-1`, `a` being the best denominator so far: a candidate replaces
it only when its error is strictly less. The best numerator and error are those of the best denominator (log 15). -/
def scanFrom (r t dmax : Nat) : Nat → Nat → Nat
  | 0, a => a
  | k + 1, a =>
    if fineError r t (dmax - (k + 1)) < fineError r t a then scanFrom r t dmax k (dmax - (k + 1))
    else scanFrom r t dmax k a

/-- The denominator the scan over `2 .. dmax-1` keeps (R137): the first candidate 2 is taken whatever its error. -/
def scanDenominator (r t dmax : Nat) : Nat := scanFrom r t dmax (dmax - 2) 2

/-- Failure returns zeros (R138). -/
def FineResult.failed : FineResult := ⟨0, 0, 0, 0⟩

/-- The last part of `FINE`: the range test on `n`, then the frequency the coefficients reconstruct (R138). -/
def fineFinish (src n b a min max : Nat) : FineResult :=
  if n < min ∨ max ≤ n ∨ n = 0 then FineResult.failed else ⟨src * a / (n * a + b), n, b, a⟩

/-- `FINE(s, t, D, min, max)` (R136, R137, R138). -/
def fine (src t dmax min max : Nat) : FineResult :=
  if t = 0 ∨ dmax < 3 then FineResult.failed
  else if carries (src % t) t dmax then fineFinish src (src / t + 1) 0 2 min max
  else
    fineFinish src (src / t) (nearestNumerator (src % t) t (scanDenominator (src % t) t dmax))
      (scanDenominator (src % t) t dmax) min max

/-- CS.FINE (R135). -/
def execCsFine (s : State) : Result :=
  unlessHalted s <|
    let q := fine s.a0.toNat s.a1.toNat s.a2.toNat s.a3.toNat s.a4.toNat
    if q.f = 0 then .next (finish .infeasible { s with r0 := 0, r1 := 0, r2 := 0, r3 := 0 })
    else
      .next (finish .done
        { s with r0 := BitVec.ofNat 32 q.f, r1 := BitVec.ofNat 32 q.n, r2 := BitVec.ofNat 32 q.b,
                 r3 := BitVec.ofNat 32 q.a })

/-! ### Synthesis of a plan -/

/-- A failed synthesis: the target stays, everything else is 0 (R140, `fail`). -/
def failedPlan (t : Nat) : Plan := { Plan.zero with target := BitVec.ofNat 32 t }

/-- The plan CS.SYNTH writes for target `t` (R140). -/
def synthPlan (t : Nat) : Plan :=
  match coarse t with
  | none => failedPlan t
  | some d =>
    let q := fine (t * ratioK d) Config.fRef Config.fracD Config.mulMin Config.mulMax
    if q.f = 0 then failedPlan t
    else
      { valid := true
        target := BitVec.ofNat 32 t
        d := BitVec.ofNat 8 d
        n := BitVec.ofNat 32 q.n
        b := BitVec.ofNat 32 q.b
        a := BitVec.ofNat 32 q.a
        realFreq := BitVec.ofNat 32 (Config.fRef * (q.n * q.a + q.b) / (q.a * ratioK d)) }

/-- CS.SYNTH(t) on the state (R140). -/
def synthesize (t : Nat) (s : State) : State := { s with plan := synthPlan t }

/-- CS.SYNTH standing alone, its target an operand (log 3). -/
def execCsSynth (s : State) : Result := .next (synthesize s.uop.target.toNat s)

/-! ### Applying a plan -/

/-- The resource is configured at another frequency and held by more than one referent: status 2 (R142). -/
def oscBusy (s : State) : Bool :=
  decide (s.oscFreq ≠ s.plan.realFreq) && decide (s.oscFreq ≠ 0) && decide (1 < oscRefs s)

/-- CS.APPLY leaves the resource alone: it is already right (a no-op), or busy (R142). -/
def oscKept (s : State) : Bool := decide (s.oscFreq = s.plan.realFreq) || oscBusy s

/-- The oscillator after CS.APPLY (R142): kept, or configured with the plan. -/
def applyPlan (s : State) : State :=
  { s with
    oscFreq := if oscKept s then s.oscFreq else s.plan.realFreq
    oscPlan := if oscKept s then s.oscPlan else ⟨s.plan.d, s.plan.n, s.plan.b, s.plan.a⟩ }

/-- The pair CS.APPLY returns (R142): the status, and the frequency in force after it. -/
def applyResult (s : State) : ApplyResult := ⟨if oscBusy s then 2 else 1, (applyPlan s).oscFreq⟩

/-- CS.APPLY standing alone; the pair it returns is left in `uopResult` (log 3). -/
def execCsApply (s : State) : Result := .next { applyPlan s with uopResult := applyResult s }

end Sys2Proof.Machine
end

