-- ==== Sys2Proof/Machine/FrameBuffer.lean ====
section
/-!
DEFINITION. The FrameBufferCoordinator (`spec/43_frame_buffer_coordinator.md`): FB.ALLOC, GETWB, FBWR, COMMIT.
-/

namespace Sys2Proof.Machine

open Sys2Proof

/-- `FB.ALLOC(h)` (R221): an array of which every element holds an unspecified value. -/
def allocFrame (h : Bool) (s : State) : State := setFb s h []

/-- FB.ALLOC standing alone, its handle an operand (log 3). -/
def execFbAlloc (s : State) : Result := .next (allocFrame s.uop.h s)

/-- The phase check of GETWB, FBWR and COMMIT: ConfigurationError cause 3 outside ACTIVE (R220). -/
def requireActive (opcode : Byte) (s : State) (k : Result) : Result :=
  if s.phase = .active then k else .next (raiseFatal .configurationError opcode 3 s)

/-- GETWB (R222): the handle of the back buffer. -/
def execGetwb (s : State) : Result :=
  unlessHalted s <| requireActive 0x10 s <| .next (finish .done { s with r0 := bitWord (!s.frontSel) })

/-- The store of FBWR: `MemWrite(FB[h], (ROW, COL), 8, v)` (R224); a buffer that does not exist is a fault (log 7). -/
def storePixel (h : Bool) (row col : Nat) (v : Byte) (s : State) : Result :=
  if fbRowExists s row then .next (setFb s h (memWrite (fbOf s h) (fbIndex row col) v)) else .fault .noFrameBuffer

/-- FBWR row, col (R224): ownership (R226), then bounds (R227), then the store. -/
def execFbwr (row col : Nat) (s : State) : Result :=
  unlessHalted s <| requireActive 0x11 s <|
    if fbwrHandle s = s.frontSel then .next (raiseFatal .ownershipViolation 0x11 0 s)
    else if s.prof.activeLines.toNat ≤ row ∨ Config.fbWidth ≤ col then .next (raiseFatal .boundsViolation 0x11 0 s)
    else andThen (storePixel (fbwrHandle s) row col (fbwrPixel s) s) fun s => .next (finish .done s)

/-- COMMIT: the issue, the first of its two atomic steps (R229). -/
def execCommit (s : State) : Result :=
  unlessHalted s <| requireActive 0x12 s <| .next { s with wakePending := false, ready := true, prodWaiting := true }

/-- COMMIT: the completion, taken while `prodWaiting = 1` and `wakePending = 1` (R230). -/
def completeCommit (s : State) : State := finish .done { s with wakePending := false, prodWaiting := false }

end Sys2Proof.Machine
end

