-- ==== Sys2Proof/Machine/Lifecycle.lean ====
section
/-!
DEFINITION. The engine lifecycle (`spec/44_engine_lifecycle.md`): NOP, INIT, BEGIN, TEARDOWN, GETFC, GETSC.
-/

namespace Sys2Proof.Machine

open Sys2Proof

/-- NOP (R250). -/
def execNop (s : State) : Result := unlessHalted s <| .next (finish .done s)

/-! ### INIT -/

/-- The ConfigurationError cause of `VALIDATE` for a profile, after the pair check: 2 for the transfer limit, then 7 for
any other condition of R8; none when it passes (R252). -/
def profileCause (p : Profile) : Option (BitVec 4) :=
  if fitsTransfer p = false then some 2 else if wellFormedProfile p = false then some 7 else none

/-- What a legal INIT latches for mode `m` (R251). -/
def configure (table : Mode → Profile) (m : Mode) (std spcc : Nat) (s : State) : State :=
  let plan := synthPlan (targetHz m)
  finish (if plan.valid then .done else .infeasible)
    { s with
      std := BitVec.ofNat 1 std
      spcc := BitVec.ofNat 3 spcc
      profileValid := true
      prof := table m
      plan := plan
      phase := .configured
      r0 := plan.realFreq
      r1 := plan.d.zeroExtend 32
      r2 := plan.n
      r3 := plan.b
      r4 := plan.a }

/-- INIT over a profile table (R251, R252): the phase check (cause 6), the pair (cause 4), the profile (causes 2, 7). -/
def initWith (table : Mode → Profile) (std spcc : Nat) (s : State) : Result :=
  unlessHalted s <|
    if s.phase = .active then .next (raiseFatal .configurationError 0x01 6 s)
    else
      match modeOf std spcc with
      | none => .next (raiseFatal .configurationError 0x01 4 s)
      | some m =>
        match profileCause (table m) with
        | some c => .next (raiseFatal .configurationError 0x01 c s)
        | none => .next (configure table m std spcc s)

/-- INIT std, spcc over the table of R7 (R251). -/
def execInit (std spcc : Nat) (s : State) : Result := initWith profileOf std spcc s

/-! ### BEGIN -/

/-- Steps B1 and B2 (R256): allocate both frame buffers and both sample buffers. -/
def allocateBuffers (s : State) : State :=
  { allocFrame true (allocFrame false s) with
    fbValid := true
    sb0 := List.replicate (lineWidth s) none
    sb1 := List.replicate (lineWidth s) none
    sbValid := true }

/-- Step B3 (R256): the engine's initial state. -/
def initialExchange (s : State) : State :=
  { s with
    lineCounter := 0
    frameCount := 0
    swapCount := 0
    frontSel := false
    ready := false
    fillSel := false
    wakePending := false
    out := [] }

/-- Steps B5 to B7 (R256) with the pair CS.APPLY returned. -/
def startEngine (q : ApplyResult) (s : State) : State :=
  finish (if q.status = 2 then .resourceBusy else .done)
    { s with outEnable := true, tickEnable := true, phase := .active, r0 := q.status, r1 := q.freq }

/-- The steps of a legal BEGIN in order (R256); B4 takes the reference, then applies the plan. -/
def beginSteps (s : State) : State :=
  let s := initialExchange (allocateBuffers s)
  let s := { s with oscHeld := true }
  startEngine (applyResult s) (applyPlan s)

/-- BEGIN (R255). -/
def execBegin (s : State) : Result :=
  unlessHalted s <|
    if s.phase = .active then .next (raiseFatal .configurationError 0x02 1 s)
    else if s.phase = .unconfigured ∨ s.plan.valid = false then .next (raiseFatal .configurationError 0x02 5 s)
    else .next (beginSteps s)

/-! ### TEARDOWN -/

/-- Step T5 (R261): the configuration is discarded. -/
def discardConfiguration (s : State) : State :=
  finish .done
    { s with
      phase := .unconfigured
      profileValid := false
      std := 0
      spcc := 0
      prof := Profile.zero
      plan := Plan.zero
      ready := false
      wakePending := false }

/-- The steps of TEARDOWN in order (R261): interrupt, output and reference, sample buffers, frame buffers, configuration. -/
def teardownSteps (s : State) : State :=
  let s := { s with tickEnable := false }
  let s := dropReference { s with outEnable := false }
  let s := { s with sbValid := false, sb0 := [], sb1 := [] }
  let s := { s with fbValid := false, fb0 := [], fb1 := [] }
  discardConfiguration s

/-- TEARDOWN (R260). -/
def execTeardown (s : State) : Result :=
  unlessHalted s <| if s.phase = .unconfigured then .next (finish .done s) else .next (teardownSteps s)

/-! ### Diagnostic reads -/

/-- GETFC (R264). -/
def execGetfc (s : State) : Result := unlessHalted s <| .next (finish .done { s with r0 := s.frameCount })

/-- GETSC (R265). -/
def execGetsc (s : State) : Result := unlessHalted s <| .next (finish .done { s with r0 := s.swapCount })

end Sys2Proof.Machine
end

