-- ==== Sys2Proof/Machine/PixelEncoder.lean ====
section
/-!
DEFINITION. The PixelEncoder (`spec/41_pixel_encoder.md`): the three encoders over one shared function (R163).
-/

namespace Sys2Proof.Machine

open Sys2Proof

/-- `PHASE(e, k) = e[31-8k : 24-8k]`, `k` in 0..3 (R162). -/
def phaseOf (e : BitVec 32) (k : Nat) : Byte := e.extractLsb' (24 - 8 * k) 8

/-- Sample `q` of an encoded row (R163): the pixel `q div spp` of the row, through the table, at phase `q mod spcc`. A
sample of an unspecified pixel is unspecified (R168). `pal` is one variant of the palette table. -/
def encodedSample (pal : Byte → BitVec 32) (fb : Memory) (row spp spcc q : Nat) : Option Sample :=
  (memRead fb (fbIndex row (q / spp))).map fun p => levelWord (phaseOf (pal p) (q % spcc))

/-- `ENCODE(h, row, j, o, v, spp, spcc)` (R163): the positions `o .. o + FB_WIDTH·spp - 1` of `SB[j]`. A row that does
not exist is a fault (log 7). -/
def encodeRow (h : Bool) (row : Nat) (j : Bool) (o : Nat) (v : Bool) (spp spcc : Nat) (s : State) : Result :=
  if fbRowExists s row then
    writeSamples j o (o + Config.fbWidth * spp)
      (fun p => encodedSample (Config.palRom v) (fbOf s h) row spp spcc (p - o)) s
  else .fault .noFrameBuffer

/-- `PE.ENC_N3(row, j)`: NTSC, 3 samples per color clock (R164). -/
def encN3 (row : Nat) (j : Bool) (s : State) : Result :=
  encodeRow s.frontSel row j s.prof.activeStart.toNat false 2 3 s

/-- `PE.ENC_N4(row, j)`: NTSC, 4 samples per color clock (R165). -/
def encN4 (row : Nat) (j : Bool) (s : State) : Result :=
  encodeRow s.frontSel row j s.prof.activeStart.toNat false 3 4 s

/-- `PE.ENC_P4(row, j, parity)`: PAL, from table variant `parity` (R166). -/
def encP4 (row : Nat) (j : Bool) (parity : Bool) (s : State) : Result :=
  encodeRow s.frontSel row j s.prof.activeStart.toNat parity 3 4 s

/-- PE.ENC_N3 standing alone, its operands those of the `micro` move (log 3). -/
def execPeEncN3 (s : State) : Result := encN3 s.uop.row s.uop.j s

/-- PE.ENC_N4 standing alone (log 3). -/
def execPeEncN4 (s : State) : Result := encN4 s.uop.row s.uop.j s

/-- PE.ENC_P4 standing alone (log 3). -/
def execPeEncP4 (s : State) : Result := encP4 s.uop.row s.uop.j s.uop.parity s

end Sys2Proof.Machine
end

