-- ==== Sys2Proof/Machine/ScanTiming.lean ====
section
/-!
DEFINITION. The ScanTimingEngine (`spec/42_scan_timing_engine.md`): the four line operations, the line program, the
transition rule with the swap point, and the whole step TICK.
-/

namespace Sys2Proof.Machine

open Sys2Proof

/-! ### The line operations -/

/-- The picture part of LINE.ACTIVE: the encoder of the latched mode (R186). -/
def encodePicture (row : Nat) (j parity : Bool) (s : State) : Result :=
  match stateMode s with
  | some .ntsc3 => encN3 row j s
  | some .ntsc4 => encN4 row j s
  | some .pal4 => encP4 row j parity s
  | none => .next s

/-- The row of BURST_ROM the line reads, with an entry for every phase `x mod prof.spcc` (R187). -/
def burstLevels (s : State) (parity : Bool) : Option (List Byte) :=
  match (stateMode s).bind (burstRom · parity) with
  | some row => if 0 < s.prof.spcc.toNat ∧ s.prof.spcc.toNat ≤ row.length then some row else none
  | none => none

/-- The color burst of LINE.ACTIVE: position `burstStart + x` takes the level of phase `x mod prof.spcc` (R186). An index
outside the table is a fault (log 7). -/
def writeBurst (j parity : Bool) (s : State) : Result :=
  let start := s.prof.burstStart.toNat
  if s.prof.burstWidth.toNat = 0 then .next s
  else
    match burstLevels s parity with
    | some row =>
      writeSamples j start (start + s.prof.burstWidth.toNat)
        (fun p => (row[(p - start) % s.prof.spcc.toNat]?).map levelWord) s
    | none => .fault .noTableEntry

/-- `LINE.ACTIVE(j, row, parity)` (R186): sync, breezeway, burst, blanking, picture, blanking to the end of the line. -/
def lineActive (j : Bool) (row : Nat) (parity : Bool) (s : State) : Result :=
  let p := s.prof
  andThen (fill j 0 p.hsync.toNat Config.syncLevel s) fun s =>
  andThen (fill j p.hsync.toNat p.burstStart.toNat Config.blankLevel s) fun s =>
  andThen (writeBurst j parity s) fun s =>
  andThen (fill j (p.burstStart.toNat + p.burstWidth.toNat) p.activeStart.toNat Config.blankLevel s) fun s =>
  andThen (encodePicture row j parity s) fun s =>
  fill j (p.activeStart.toNat + Config.fbWidth * p.spp.toNat) p.lineWidth.toNat Config.blankLevel s

/-- `LINE.BLANK(j)` (R188). -/
def lineBlank (j : Bool) (s : State) : Result :=
  let p := s.prof
  andThen (fill j 0 p.hsync.toNat Config.syncLevel s) fun s =>
  fill j p.hsync.toNat p.lineWidth.toNat Config.blankLevel s

/-- `LINE.VSYNC(j)` (R189). -/
def lineVsync (j : Bool) (s : State) : Result :=
  let p := s.prof
  andThen (fill j 0 p.hsyncLong.toNat Config.syncLevel s) fun s =>
  fill j p.hsyncLong.toNat p.lineWidth.toNat Config.blankLevel s

/-- The width of one half line's sync pulse: long when its bit of the table entry is 1 (R190, R191). -/
def pulseWidth (p : Profile) (long : Bool) : Nat := if long then p.hsyncLong.toNat else p.hsyncShort.toNat

/-- `LINE.PALSYNC(j, t)` (R190): each half of the line starts with its own sync pulse. -/
def linePalsync (j : Bool) (t : Nat) (s : State) : Result :=
  let p := s.prof
  let w := p.lineWidth.toNat
  match palSyncRom t with
  | none => .fault .noTableEntry
  | some c =>
    let w1 := pulseWidth p (c.getLsbD 1)
    let w2 := pulseWidth p (c.getLsbD 0)
    andThen (fill j 0 w1 Config.syncLevel s) fun s =>
    andThen (fill j w1 (w / 2) Config.blankLevel s) fun s =>
    andThen (fill j (w / 2) (w / 2 + w2) Config.syncLevel s) fun s =>
    fill j (w / 2 + w2) w Config.blankLevel s

/-! ### The line program -/

/-- Which line operation a line index selects, with its operands (R183). -/
inductive LineOp where
  | active (row : Nat) (parity : Bool)
  | blank
  | vsync
  | palsync (t : Nat)
deriving DecidableEq, Repr

/-- `DISPATCH(i, j)`, the sequencer's fixed program (R183). -/
def lineProgram (p : Profile) (i : Nat) : LineOp :=
  if p.std.toNat = 0 then
    if i < p.activeLines.toNat then .active i false
    else if i < p.activeLines.toNat + Config.ntscPostBlank then .blank
    else if i < p.activeLines.toNat + Config.ntscPostBlank + Config.ntscVsync then .vsync
    else .blank
  else
    if i < Config.palActiveFirst then .blank
    else if i < Config.palActiveFirst + p.activeLines.toNat then
      .active (i - Config.palActiveFirst) (decide (i % 2 = 1))
    else if i < Config.palVsyncFirst then .blank
    else .palsync (i - Config.palVsyncFirst)

/-- Run the selected line operation on `SB[j]`. -/
def runLine (op : LineOp) (j : Bool) (s : State) : Result :=
  match op with
  | .active row parity => lineActive j row parity s
  | .blank => lineBlank j s
  | .vsync => lineVsync j s
  | .palsync t => linePalsync j t s

/-! ### The transition rule -/

/-- The single swap point (R194): exchange front and back, clear `ready`, count, wake the waiting producer. -/
def swapBuffers (s : State) : State :=
  { s with frontSel := !s.frontSel, ready := false, swapCount := s.swapCount + 1, wakePending := true }

/-- SEQ.ADVANCE (R194). -/
def advance (s : State) : State :=
  if s.lineCounter.toNat + 1 = s.prof.totalLines.toNat then
    let s' := { s with lineCounter := 0, frameCount := s.frameCount + 1 }
    if s.ready then swapBuffers s' else s'
  else { s with lineCounter := BitVec.ofNat 16 (s.lineCounter.toNat + 1) }

/-! ### The whole step -/

/-- The words the drain path streams: each element as it stands, an unspecified one drawn afresh (R49, log 4). -/
def streamed (draw : Nat) : Line → List Sample
  | [] => []
  | x :: xs => x.getD (Config.freeSample draw) :: streamed (draw + 1) xs

/-- `OUT <- OUT ++ [SB[j][0 .. prof.lineWidth-1]]` (R181, R182). -/
def drain (j : Bool) (s : State) : Result :=
  if sbRangeExists s j 0 (lineWidth s) then
    .next { s with
      out := s.out ++ [streamed s.draws ((sbOf s j).take (lineWidth s))]
      draws := s.draws + lineWidth s }
  else .fault .noSampleBuffer

/-- TICK, the step of the sequencer when the interrupt is enabled (R181). -/
def tickBody (s : State) : Result :=
  andThen (drain s.fillSel s) fun s1 =>
  andThen (runLine (lineProgram s.prof s.lineCounter.toNat) s.fillSel s1) fun s2 =>
  .next (advance { s2 with fillSel := !s2.fillSel })

/-- A line-completion event (R290): one TICK while `tickEnable = 1`; otherwise it is dropped and nothing changes. -/
def lineEvent (s : State) : Result := if s.tickEnable then tickBody s else .next s

/-! ### The micro-operations standing alone (log 3) -/

/-- LINE.ACTIVE (R186). -/
def execLineActive (s : State) : Result := lineActive s.uop.j s.uop.row s.uop.parity s

/-- LINE.BLANK (R188). -/
def execLineBlank (s : State) : Result := lineBlank s.uop.j s

/-- LINE.VSYNC (R189). -/
def execLineVsync (s : State) : Result := lineVsync s.uop.j s

/-- LINE.PALSYNC (R190). -/
def execLinePalsync (s : State) : Result := linePalsync s.uop.j s.uop.t s

/-- SEQ.ADVANCE (R194). -/
def execSeqAdvance (s : State) : Result := .next (advance s)

end Sys2Proof.Machine
end

