-- ==== Sys2Proof/Machine/Dispatch.lean ====
section
/-!
DEFINITION. Which meaning each instruction has: one arm per constructor of `Instr`.
-/

namespace Sys2Proof.Machine

def exec (i : Instr) (s : State) : Host.Outcome State Fault Refusal :=
  match i with
  | .nop => Sys2Proof.Machine.execNop s
  | .init std spcc => Sys2Proof.Machine.execInit std spcc s
  | .beginEngine => Sys2Proof.Machine.execBegin s
  | .teardown => Sys2Proof.Machine.execTeardown s
  | .getwb => Sys2Proof.Machine.execGetwb s
  | .fbwr row col => Sys2Proof.Machine.execFbwr row col s
  | .commit => Sys2Proof.Machine.execCommit s
  | .getfc => Sys2Proof.Machine.execGetfc s
  | .getsc => Sys2Proof.Machine.execGetsc s
  | .csCoarse => Sys2Proof.Machine.execCsCoarse s
  | .csFine => Sys2Proof.Machine.execCsFine s
  | .lineActive => Sys2Proof.Machine.execLineActive s
  | .lineBlank => Sys2Proof.Machine.execLineBlank s
  | .lineVsync => Sys2Proof.Machine.execLineVsync s
  | .linePalsync => Sys2Proof.Machine.execLinePalsync s
  | .peEncN3 => Sys2Proof.Machine.execPeEncN3 s
  | .peEncN4 => Sys2Proof.Machine.execPeEncN4 s
  | .peEncP4 => Sys2Proof.Machine.execPeEncP4 s
  | .seqAdvance => Sys2Proof.Machine.execSeqAdvance s
  | .fbAlloc => Sys2Proof.Machine.execFbAlloc s
  | .csApply => Sys2Proof.Machine.execCsApply s
  | .csSynth => Sys2Proof.Machine.execCsSynth s

end Sys2Proof.Machine
end

