-- ==== Sys2Proof/Machine/Agents.lean ====
section
/-!
DEFINITION. What each agent does in one turn (`spec/00_scope.md` R13, `spec/20_memory.md` R80): the producer's register
accesses and commands, the line-completion event, the other oscillator consumers, reset; and the model's own `micro` move.
-/

namespace Sys2Proof.Machine

open Sys2Proof

/-- A word written to `CMD` (`spec/10_state.md` R23): ignored in HALTED (`spec/60_exceptions.md` R287), else decoded and
executed; a word that is no command raises IllegalCommand (R286). The order of checks is R288 (log 17). -/
def issueCommand (w : Word) (s : State) : Result :=
  unlessHalted s <|
    match decodeCommand w with
    | .ok i => exec i s
    | .error _ => .next (raiseFatal .illegalCommand (opField w) 0 s)

/-- One statement of the producer (R27): a read returns the register's word (log 10), a write to register 0 issues a
command, any other write stores its word or is ignored. -/
def runStatement (op : ProdOp) (s : State) : Result :=
  match op with
  | .read n => .next { s with rdata := readReg s n }
  | .write n v => if n = 0 then issueCommand v s else .next (writeArgument s n v)

/-- The producer's turn. While it is suspended in COMMIT it takes no step but the completion, which waits for the wake
signal (`spec/10_state.md` R37, `spec/43_frame_buffer_coordinator.md` R230, log 12); otherwise its next statement, in
program order (R80). -/
def producerTurn (s : State) : Result :=
  if s.prodWaiting then .next (if s.wakePending then completeCommit s else s)
  else
    match s.prog with
    | [] => .next s
    | op :: rest => runStatement op { s with prog := rest }

/-- The model's own move: one micro-operation standing alone, with its operands (log 3). -/
def runMicro (code : Byte) (ops : MicroOperands) (s : State) : Result :=
  match decodeMicro code with
  | .ok i => exec i { s with uop := ops }
  | .error _ => .refused (.unknownMicroCode code)

/-- One move. -/
def runMove (m : Move) (s : State) : Result :=
  match m with
  | .producer => producerTurn s
  | .tick => lineEvent s
  | .extAcq => .next (extAcquire s)
  | .extRel => .next (extRelease s)
  | .extCfg f => .next (extConfigure f s)
  | .reset => .next (resetBlock s)
  | .micro code ops => runMicro code ops s

/-- The next move of the schedule, if there is one; with none the block does nothing (`spec/70_reset_and_hazards.md`
R322). -/
def nextMove (s : State) : Result :=
  match s.sched with
  | [] => .next s
  | m :: rest => runMove m { s with sched := rest }

/-- The state in which the next step issues an encoded instruction: a command word as the producer's write to `CMD`, a
micro-operation code as a `micro` move with operands 0 (log 2). A suspended producer issues nothing, so for a command the
suspension is lifted. -/
def placeEncoded (s : State) (e : Encoded) : State :=
  match e with
  | .command w => { s with prodWaiting := false, prog := .write 0 w :: s.prog, sched := .producer :: s.sched }
  | .micro code => { s with sched := .micro code MicroOperands.zero :: s.sched }

end Sys2Proof.Machine
end

