-- ==== Sys2Proof/Machine/Step.lean ====
section
/-!
DEFINITION. One step of the machine, and where an instruction word is placed for it.
-/

namespace Sys2Proof.Machine

open Sys2Proof

/-- One step: the next move of the schedule, atomic and whole (`spec/20_memory.md` R80). -/
def step (s : State) : Host.Outcome State Fault Refusal := nextMove s

/-- `s` with an opcode-table word placed so that the very next step runs it (log 2). A width the table does not use
places nothing. -/
def State.withFetchWord (s : State) (nbits w : Nat) : State :=
  match tableForm nbits w with
  | some e => placeEncoded s e
  | none => s

end Sys2Proof.Machine
end

