-- ==== Sys2Proof/Safety.lean ====
section
/-!
DEFINITION. What a state of the running block looks like, in the terms the statements use: the moves that are the spec's,
and the invariant that the block's own rules keep (`spec/10_state.md` R28 to R46).
-/

namespace Sys2Proof.Machine

open Sys2Proof

/-- The next move, if any, is one of the spec's (R13), not the model's own `micro` (log 3). -/
def State.specMove (s : State) : Bool :=
  match s.sched with
  | .micro _ _ :: _ => false
  | _ => true

/-- A micro-operation of R107 (the others are the host commands of R104). -/
def isMicroOp : Instr → Bool
  | .lineActive | .lineBlank | .lineVsync | .linePalsync | .peEncN3 | .peEncN4 | .peEncP4 => true
  | .seqAdvance | .fbAlloc | .csApply | .csSynth => true
  | .nop | .init _ _ | .beginEngine | .teardown | .getwb | .fbwr _ _ => false
  | .commit | .getfc | .getsc | .csCoarse | .csFine => false

/-- Every listed element of a frame buffer lies in one of its rows (R71). -/
def memInRange (m : Memory) (rows : Nat) : Prop := ∀ c ∈ m, c.1 < rows * Config.fbWidth

/-- The configuration that belongs to a latched mode (R29, R30, R251). -/
def State.configuredFor (s : State) (m : Mode) : Prop :=
  stateMode s = some m ∧ s.prof = profileOf m ∧ s.plan = synthPlan (targetHz m)

/-- The invariant of the block. -/
structure State.Inv (s : State) : Prop where
  /-- A latched profile is that of the latched mode, with the plan synthesized for it (R29, R30). -/
  latched : s.profileValid = true → ∃ m, s.configuredFor m
  /-- Without one, every field is 0 (R29, R30, R261). -/
  unlatched : s.profileValid = false → s.std = 0 ∧ s.spcc = 0 ∧ s.prof = Profile.zero ∧ s.plan = Plan.zero
  /-- UNCONFIGURED has no profile, CONFIGURED and ACTIVE have one (R28). -/
  unconfiguredPhase : s.phase = .unconfigured → s.profileValid = false ∧ s.sbValid = false
  configuredPhase : s.phase = .configured → s.profileValid = true ∧ s.sbValid = false
  activePhase : s.phase = .active → s.sbValid = true
  /-- The interrupt is enabled exactly in ACTIVE (R39, R181, R281). -/
  tickEnabled : s.tickEnable = decide (s.phase = .active)
  /-- BEGIN acquires and TEARDOWN gives up these together (R256, R261). -/
  fbWithSb : s.fbValid = s.sbValid
  outWithSb : s.outEnable = s.sbValid
  heldWithSb : s.oscHeld = s.sbValid
  /-- A started engine has a profile and a plan that BEGIN accepted (R255). -/
  startedConfig : s.sbValid = true → s.profileValid = true ∧ s.plan.valid = true
  /-- The line counter stays in the field (R31, R195 (d)). -/
  counter : s.sbValid = true → s.lineCounter.toNat < s.prof.totalLines.toNat
  /-- The sample buffers have one element per sample of the line (R43), or none at all. -/
  sbSize : s.sbValid = true → s.sb0.length = lineWidth s ∧ s.sb1.length = lineWidth s
  sbNone : s.sbValid = false → s.sb0 = [] ∧ s.sb1 = []
  /-- The frame buffers are in canonical form and in range (R42), or have no element. -/
  fbNone : s.sbValid = false → s.fb0 = [] ∧ s.fb1 = []
  fbWf : Memory.wf s.fb0 ∧ Memory.wf s.fb1
  fbRange : memInRange s.fb0 s.prof.activeLines.toNat ∧ memInRange s.fb1 s.prof.activeLines.toNat
  /-- The commit handshake (R34, R36, R37, R231): the producer waits for a swap that is due, or for a wake that is pending,
  and not for both. -/
  waiting : s.prodWaiting = (s.ready || s.wakePending)
  notBoth : (s.ready && s.wakePending) = false
  waitingActive : s.prodWaiting = true → s.phase = .active
  /-- FAULT is written exactly on the way into HALTED, with a code of R25. -/
  haltedFault : s.phase = .halted ↔ s.fault ≠ 0
  faultCode : s.fault = 0 ∨ s.fault.extractLsb' 0 4 = 1#4 ∨ s.fault.extractLsb' 0 4 = 4#4 ∨
    s.fault.extractLsb' 0 4 = 5#4 ∨ s.fault.extractLsb' 0 4 = 6#4
  faultHigh : s.fault.extractLsb' 16 16 = 0#16
  /-- LASTERR holds a code of R26. -/
  lastErrCode : s.lastErr = 0 ∨ s.lastErr = 2 ∨ s.lastErr = 3

/-- The outcome with `f` done to its next state, if it has one. -/
def mapNext (f : State → State) (o : Result) : Result :=
  match o with
  | .next t => .next (f t)
  | .fault e => .fault e
  | .refused r => .refused r

/-- Two states alike in everything but the contents of frame buffer `h`. -/
def State.sameBut (s t : State) (h : Bool) : Prop := setFb s h [] = setFb t h []

/-- `n` steps lead from `s` to `t`, each a next state. -/
def runsTo : Nat → State → State → Prop
  | 0, s, t => t = s
  | n + 1, s, t => ∃ u, step s = .next u ∧ runsTo n u t

end Sys2Proof.Machine
end

