-- ==== Sys2Proof/Certificates/Slice0/Obligations.lean ====
section
/-!
DEFINITION. The statements for the provers. Each docstring names the rule of `spec/` the statement formalises, or says what
of it is the model's own (log n).
-/

open Sys2Proof Sys2Proof.Machine

/-! ### Encoding and fetch -/

/-- The words `spec/95_test_vectors.md` 2.1 and the codes of R107 decode to the instructions they stand for. -/
def Obligations.SpecWordsDecode : Prop :=
  decodeCommand 0x00000000 = .ok .nop ∧ decodeCommand 0x01000300 = .ok (.init 0 3) ∧
  decodeCommand 0x01000401 = .ok (.init 1 4) ∧ decodeCommand 0x02000000 = .ok .beginEngine ∧
  decodeCommand 0x03000000 = .ok .teardown ∧ decodeCommand 0x10000000 = .ok .getwb ∧
  decodeCommand 0x11002005 = .ok (.fbwr 2 5) ∧ decodeCommand 0x110EF0FF = .ok (.fbwr 239 255) ∧
  decodeCommand 0x12000000 = .ok .commit ∧ decodeCommand 0x13000000 = .ok .getfc ∧
  decodeCommand 0x14000000 = .ok .getsc ∧ decodeCommand 0x20000000 = .ok .csCoarse ∧
  decodeCommand 0x21000000 = .ok .csFine ∧ decodeMicro 0x80 = .ok .lineActive ∧ decodeMicro 0x8A = .ok .peEncP4 ∧
  decodeMicro 0x90 = .ok .seqAdvance ∧ decodeMicro 0xA1 = .ok .csApply

/-- Decoding an encoded well-formed instruction gives it back, with every operand at every value the encoding admits
(R100 to R107). -/
def Obligations.DecodeOfEncodeIsIdentity : Prop :=
  ∀ i : Instr, i.wellFormed = true → decode (encode i) = .ok i

/-- Every word and code that decodes is the encoding of the well-formed instruction it decodes to: each has one meaning. -/
def Obligations.EncodeOfDecodeIsIdentity : Prop :=
  ∀ (e : Encoded) (i : Instr), decode e = .ok i → encode i = e ∧ i.wellFormed = true

/-- A word that matches a row of R104: a format `Z` opcode with immediate 0, `INIT` with bits 23:16 zero, or `FBWR`. -/
def matchesCommandRow (w : Word) : Prop :=
  (w.extractLsb' 24 8 ∈ [0x00#8, 0x02#8, 0x03#8, 0x10#8, 0x12#8, 0x13#8, 0x14#8, 0x20#8, 0x21#8] ∧
    w.extractLsb' 0 24 = 0#24) ∨
  (w.extractLsb' 24 8 = 0x01#8 ∧ w.extractLsb' 16 8 = 0#8) ∨ w.extractLsb' 24 8 = 0x11#8

/-- R104, R108: exactly the words that match a row decode. -/
def Obligations.ExactlyTableWordsDecode : Prop :=
  ∀ w : Word, (∃ i, decodeCommand w = .ok i) ↔ matchesCommandRow w

/-- R286: a word written to `CMD` that matches no row of R104 raises IllegalCommand in any phase except HALTED, with
`FAULT.OPCODE` its bits 31:24 and `FAULT.CAUSE` 0; the entry is R281. -/
def Obligations.UnmatchedWordRaisesIllegalCommand : Prop :=
  ∀ (s : State) (w : Word) (ops : List ProdOp) (rest : List Move),
    s.phase ≠ .halted → s.prodWaiting = false → s.sched = .producer :: rest → s.prog = .write 0 w :: ops →
    ¬ matchesCommandRow w →
    step s = .next { s with
      sched := rest, prog := ops, fault := 0#16 ++ 0#4 ++ w.extractLsb' 24 8 ++ 6#4, phase := .halted,
      tickEnable := false }

/-- A step runs the decoded instruction. For a command word the producer writes to `CMD` (R23, R100), outside HALTED and
not suspended, the step is exec of the decoded command, the statement and the turn consumed; for a `micro` move (the
model's own, log 3) it is exec of the decoded micro-operation with the move's operands. -/
def Obligations.StepRunsDecodedInstruction : Prop :=
  (∀ (s : State) (w : Word) (i : Instr) (ops : List ProdOp) (rest : List Move),
    s.phase ≠ .halted → s.prodWaiting = false → s.sched = .producer :: rest → s.prog = .write 0 w :: ops →
    decodeCommand w = .ok i → step s = exec i { s with sched := rest, prog := ops }) ∧
  (∀ (s : State) (c : Byte) (u : MicroOperands) (i : Instr) (rest : List Move),
    s.sched = .micro c u :: rest → decodeMicro c = .ok i → step s = exec i { s with sched := rest, uop := u })

/-- An opcode-table word placed by `withFetchWord` is run by the very next step (log 2, the model's own). -/
def Obligations.PlacedWordRunsNext : Prop :=
  ∀ (s : State) (nbits w : Nat) (i : Instr), decodeTableWord nbits w = some i → s.phase ≠ .halted →
    step (s.withFetchWord nbits w) =
      exec i (if isMicroOp i then { s with uop := MicroOperands.zero } else { s with prodWaiting := false })

/-! ### Registers and reset -/

/-- R27, with R21 to R26 and R79: a register read returns the register's word and changes nothing else (the word returned
is `rdata`, log 10); a write to A0..A4 stores the word; numbers 14 and above read 0 and ignore writes. That writes to the
read-only registers 1 to 3 and 9 to 13 are ignored is the model's reading (log 6). -/
def Obligations.RegisterFileAccess : Prop :=
  (∀ (s : State) (n : Nat) (ops : List ProdOp) (rest : List Move),
    s.prodWaiting = false → s.sched = .producer :: rest → s.prog = .read n :: ops →
    step s = .next { s with sched := rest, prog := ops, rdata := readReg s n }) ∧
  (∀ s : State, readReg s 0 = 0 ∧ readReg s 1 = statusWord s ∧ readReg s 2 = s.fault ∧ readReg s 3 = s.lastErr ∧
    readReg s 4 = s.a0 ∧ readReg s 5 = s.a1 ∧ readReg s 6 = s.a2 ∧ readReg s 7 = s.a3 ∧ readReg s 8 = s.a4 ∧
    readReg s 9 = s.r0 ∧ readReg s 10 = s.r1 ∧ readReg s 11 = s.r2 ∧ readReg s 12 = s.r3 ∧ readReg s 13 = s.r4 ∧
    ∀ n, 14 ≤ n → readReg s n = 0) ∧
  (∀ (s : State) (n : Nat) (v : Word) (ops : List ProdOp) (rest : List Move),
    s.prodWaiting = false → s.sched = .producer :: rest → s.prog = .write n v :: ops →
    let s' := { s with sched := rest, prog := ops }
    (n = 4 → step s = .next { s' with a0 := v }) ∧ (n = 5 → step s = .next { s' with a1 := v }) ∧
    (n = 6 → step s = .next { s' with a2 := v }) ∧ (n = 7 → step s = .next { s' with a3 := v }) ∧
    (n = 8 → step s = .next { s' with a4 := v }) ∧
    (n ∈ [1, 2, 3, 9, 10, 11, 12, 13] ∨ 14 ≤ n → step s = .next s'))

/-- R24: every field of `STATUS` stands at its bits and shows its state; bits 31:18 read as 0; after reset it is 0. -/
def Obligations.StatusShowsEveryField : Prop :=
  statusWord State.reset = 0 ∧ ∀ s : State,
    (statusWord s).extractLsb' 0 3 =
      (match s.phase with | .unconfigured => 0#3 | .configured => 1#3 | .active => 2#3 | .halted => 7#3) ∧
    (statusWord s).getLsbD 3 = s.plan.valid ∧ (statusWord s).getLsbD 4 = s.ready ∧
    (statusWord s).getLsbD 5 = s.frontSel ∧ (statusWord s).getLsbD 6 = s.fillSel ∧
    (statusWord s).getLsbD 7 = s.wakePending ∧ (statusWord s).getLsbD 8 = s.tickEnable ∧
    (statusWord s).getLsbD 9 = s.outEnable ∧ (statusWord s).getLsbD 10 = s.fbValid ∧
    (statusWord s).getLsbD 11 = s.sbValid ∧ (statusWord s).extractLsb' 12 1 = s.std ∧
    (statusWord s).extractLsb' 13 3 = s.spcc ∧ (statusWord s).getLsbD 16 = s.oscHeld ∧
    (statusWord s).getLsbD 17 = s.profileValid ∧ (statusWord s).extractLsb' 18 14 = 0#14

/-- R50, R320, R303 (last paragraph): what the block's state holds after reset, with the oscillator at `OSC0 = (0, 0)` at
launch (R6, R44); and a reset, from any state, puts every piece of the block's state at those values: a reference held is
dropped (the last reference dropped unconfigures the resource), the rest of the resource is left alone, and the producer's
program starts over (R321). That `draws` and the rest of the schedule go on, and what the model's own `rdata`, `uop` and
`uopResult` hold after a reset, is the model's choice (log 13, log 5). -/
def Obligations.ResetValues : Prop :=
  (let s := State.reset
   s.a0 = 0 ∧ s.a1 = 0 ∧ s.a2 = 0 ∧ s.a3 = 0 ∧ s.a4 = 0 ∧ s.r0 = 0 ∧ s.r1 = 0 ∧ s.r2 = 0 ∧ s.r3 = 0 ∧ s.r4 = 0 ∧
   s.fault = 0 ∧ s.lastErr = 0 ∧ s.phase = .unconfigured ∧ s.std = 0 ∧ s.spcc = 0 ∧ s.profileValid = false ∧
   s.prof = ⟨0, 0, 0, 0, 0, 0, 0, 0, 0, 0, 0, 0⟩ ∧ s.plan = ⟨false, 0, 0, 0, 0, 0, 0⟩ ∧ s.lineCounter = 0 ∧
   s.frameCount = 0 ∧ s.swapCount = 0 ∧ s.ready = false ∧ s.frontSel = false ∧ s.wakePending = false ∧
   s.prodWaiting = false ∧ s.fillSel = false ∧ s.tickEnable = false ∧ s.outEnable = false ∧ s.oscHeld = false ∧
   s.fbValid = false ∧ s.sbValid = false ∧ s.fb0 = [] ∧ s.fb1 = [] ∧ s.sb0 = [] ∧ s.sb1 = [] ∧ s.out = [] ∧
   s.oscFreq = 0 ∧ s.oscExtRefs = 0 ∧ s.oscPlan = ⟨0, 0, 0, 0⟩ ∧ statusWord s = 0) ∧
  (∀ (s : State) (rest : List Move), s.sched = .reset :: rest →
    step s = .next { State.reset with
      oscFreq := if s.oscHeld = true ∧ s.oscExtRefs = 0 then 0 else s.oscFreq
      oscExtRefs := s.oscExtRefs
      oscPlan := s.oscPlan
      draws := s.draws
      program := s.program
      prog := s.program
      sched := rest })

/-- The conditions of R8, on the numbers. That a profile with `std` neither 0 nor 1 is held to the conditions of 1 is the
model's choice (log 18). -/
def rule8 (p : Profile) : Prop :=
  let n : BitVec 16 → Nat := BitVec.toNat
  n p.spcc ∣ n p.lineWidth ∧ n p.spcc ∣ n p.burstStart ∧ n p.spcc ∣ n p.activeStart ∧ n p.hsync ≤ n p.burstStart ∧
  n p.burstStart + n p.burstWidth ≤ n p.activeStart ∧ n p.activeStart + 256 * n p.spp ≤ n p.lineWidth ∧
  (n p.std = 0 → n p.hsyncLong ≤ n p.lineWidth ∧ n p.activeLines + 5 + 3 ≤ n p.totalLines) ∧
  (n p.std ≠ 0 → 2 ∣ n p.lineWidth ∧ n p.hsyncLong ≤ n p.lineWidth / 2 ∧ n p.hsyncShort ≤ n p.lineWidth / 2 ∧
    32 + n p.activeLines ≤ 304 ∧ 304 < n p.totalLines ∧ n p.totalLines - 304 ≤ 8) ∧
  n p.activeLines = 240 ∧ n p.lineWidth * 2 ≤ 4092 ∧ n p.totalLines < 65536

/-- R7, R8: the check accepts a profile, whatever its fields, exactly when the conditions of R8 hold of it (`rule8`; for a
`std` neither 0 nor 1, log 18), and they hold of the three default profiles. -/
def Obligations.DefaultProfilesWellFormed : Prop :=
  (∀ m : Mode, rule8 (profileOf m) ∧ wellFormedProfile (profileOf m) = true) ∧
  ∀ p : Profile, wellFormedProfile p = true ↔ rule8 p

/-! ### Host commands -/

/-- R287: in HALTED every host command and every word on `CMD` changes nothing; and no move of the spec but reset leaves
HALTED or changes `FAULT` (R25, sticky) or a result register. -/
def Obligations.HaltedUntilReset : Prop :=
  (∀ (s : State) (i : Instr), s.phase = .halted → isMicroOp i = false → exec i s = .next s) ∧
  (∀ (s : State) (w : Word), s.phase = .halted → issueCommand w s = .next s) ∧
  (∀ s t : State, s.phase = .halted → s.specMove = true → s.sched.head? ≠ some .reset → step s = .next t →
    t.phase = .halted ∧ t.fault = s.fault ∧ t.r0 = s.r0 ∧ t.r1 = s.r1 ∧ t.r2 = s.r2 ∧ t.r3 = s.r3 ∧ t.r4 = s.r4)

/-- R250: `NOP` writes `LASTERR` with 0 and nothing else changes; in HALTED it is ignored. -/
def Obligations.NopOnlyClearsLastErr : Prop :=
  decodeCommand 0x00000000 = .ok .nop ∧
  ∀ s : State, exec .nop s = .next (if s.phase = .halted then s else { s with lastErr := 0 })

/-- The counters have not started: the interrupt is disabled and both are 0. -/
def notCounting (s : State) : Prop := s.tickEnable = false ∧ s.frameCount = 0 ∧ s.swapCount = 0

/-- The next move is the producer's write of `BEGIN` to `CMD`, from CONFIGURED. -/
def beginsNow (s : State) : Prop :=
  s.sched.head? = some .producer ∧ s.prog.head? = some (.write 0 0x02000000) ∧ s.phase = .configured

/-- R264, R265: outside HALTED, `GETFC` and `GETSC` return `frameCount` and `swapCount` in `R0`; and before the first
`BEGIN` they return 0: the counters are 0 after reset, and every move of the spec but a legal `BEGIN` leaves them so. -/
def Obligations.DiagnosticReadsReturnCounters : Prop :=
  (notCounting State.reset ∧
    (∀ s t : State, notCounting s → s.specMove = true → step s = .next t → notCounting t ∨ beginsNow s) ∧
    ∀ s : State, notCounting s → s.phase ≠ .halted →
      exec .getfc s = .next { s with r0 := 0, lastErr := 0 } ∧
      exec .getsc s = .next { s with r0 := 0, lastErr := 0 }) ∧
  decodeCommand 0x13000000 = .ok .getfc ∧ decodeCommand 0x14000000 = .ok .getsc ∧ ∀ s : State, s.phase ≠ .halted →
    exec .getfc s = .next { s with r0 := s.frameCount, lastErr := 0 } ∧
    exec .getsc s = .next { s with r0 := s.swapCount, lastErr := 0 }

/-- R222, R220: in ACTIVE, `GETWB` returns the handle of the back buffer, `1 - frontSel`; in UNCONFIGURED and CONFIGURED
it raises ConfigurationError cause 3 (`FAULT = 0x00003101`). -/
def Obligations.GetwbReturnsBackHandle : Prop :=
  decodeCommand 0x10000000 = .ok .getwb ∧
  (∀ s : State, s.phase = .active →
    exec .getwb s = .next { s with r0 := if s.frontSel then 0 else 1, lastErr := 0 }) ∧
  (∀ s : State, s.phase = .unconfigured ∨ s.phase = .configured →
    exec .getwb s = .next { s with fault := 0x00003101, phase := .halted, tickEnable := false })

/-- R224: `FBWR` with the back buffer's handle and an index in range stores `A0[7:0]` in that one element; every other
element of both frame buffers reads as before, and nothing else changes but `LASTERR`. -/
def Obligations.FbwrStoresOnePixel : Prop :=
  ∀ (s : State) (row col : Nat), s.phase = .active → s.fbValid = true → s.a1.getLsbD 0 ≠ s.frontSel →
    row < s.prof.activeLines.toNat → col < 256 →
    ∃ t, exec (.fbwr row col) s = .next t ∧
      fbRead t (s.a1.getLsbD 0) row col = some (s.a0.extractLsb' 0 8) ∧
      (∀ h' row' col', col' < 256 → ¬ (h' = s.a1.getLsbD 0 ∧ row' = row ∧ col' = col) →
        fbRead t h' row' col' = fbRead s h' row' col') ∧
      fbOf t s.frontSel = fbOf s s.frontSel ∧ t = { s with fb0 := t.fb0, fb1 := t.fb1, lastErr := 0 }

/-- R224, R226, R227, R220: the checks of `FBWR` in their order; the first that fails decides the fault, and nothing is
stored. -/
def Obligations.FbwrChecksInOrder : Prop :=
  ∀ (s : State) (row col : Nat),
    (s.phase = .unconfigured ∨ s.phase = .configured →
      exec (.fbwr row col) s = .next { s with fault := 0x00003111, phase := .halted, tickEnable := false }) ∧
    (s.phase = .active → s.a1.getLsbD 0 = s.frontSel →
      exec (.fbwr row col) s = .next { s with fault := 0x00000114, phase := .halted, tickEnable := false }) ∧
    (s.phase = .active → s.a1.getLsbD 0 ≠ s.frontSel → s.prof.activeLines.toNat ≤ row ∨ 256 ≤ col →
      exec (.fbwr row col) s = .next { s with fault := 0x00000115, phase := .halted, tickEnable := false })

/-- R229, R220: the issue of `COMMIT`, one atomic step; outside ACTIVE it raises ConfigurationError cause 3
(`FAULT = 0x00003121`). -/
def Obligations.CommitIssue : Prop :=
  (∀ s : State, s.phase = .active →
    exec .commit s = .next { s with wakePending := false, ready := true, prodWaiting := true }) ∧
  (∀ s : State, s.phase = .unconfigured ∨ s.phase = .configured →
    exec .commit s = .next { s with fault := 0x00003121, phase := .halted, tickEnable := false })

/-- R230, R37: the completion of `COMMIT`, taken in a turn of the suspended producer while a wake is pending; without one
the producer takes no step, which in the model uses up the turn and changes nothing else (log 12). -/
def Obligations.CommitWaitsThenCompletes : Prop :=
  ∀ (s : State) (rest : List Move), s.prodWaiting = true → s.sched = .producer :: rest →
    (s.wakePending = true →
      step s = .next { s with sched := rest, wakePending := false, prodWaiting := false, lastErr := 0 }) ∧
    (s.wakePending = false → step s = .next { s with sched := rest })

/-- R251, R253: from UNCONFIGURED and from CONFIGURED, `INIT` latches each of the three configurations, with the numbers
of R7 and R141, and changes nothing else. -/
def Obligations.InitLatchesConfiguration : Prop :=
  decodeCommand 0x01000300 = .ok (.init 0 3) ∧ decodeCommand 0x01000400 = .ok (.init 0 4) ∧
  decodeCommand 0x01000401 = .ok (.init 1 4) ∧ ∀ s : State, s.phase = .unconfigured ∨ s.phase = .configured →
    exec (.init 0 3) s = .next { s with
      std := 0, spcc := 3, profileValid := true, phase := .configured,
      prof := ⟨0, 3, 2, 684, 262, 240, 48, 630, 0, 48, 30, 114⟩,
      plan := ⟨true, 10738636, 15, 9, 4703, 36788, 10738636⟩,
      r0 := 10738636, r1 := 15, r2 := 9, r3 := 4703, r4 := 36788, lastErr := 0 } ∧
    exec (.init 0 4) s = .next { s with
      std := 0, spcc := 4, profileValid := true, phase := .configured,
      prof := ⟨0, 4, 3, 912, 262, 240, 64, 840, 0, 64, 40, 144⟩,
      plan := ⟨true, 14318182, 11, 9, 27, 88, 14318181⟩,
      r0 := 14318181, r1 := 11, r2 := 9, r3 := 27, r4 := 88, lastErr := 0 } ∧
    exec (.init 1 4) s = .next { s with
      std := 1, spcc := 4, profileValid := true, phase := .configured,
      prof := ⟨1, 4, 3, 1136, 312, 240, 80, 536, 32, 96, 44, 272⟩,
      plan := ⟨true, 17734475, 8, 8, 29676, 34219, 17734474⟩,
      r0 := 17734474, r1 := 8, r2 := 8, r3 := 29676, r4 := 34219, lastErr := 0 }

/-- R251, R252: `INIT` in ACTIVE raises cause 6; then a pair other than (0,3), (0,4), (1,4) cause 4; then, over any table
of profiles, a line longer than the single-transfer limit cause 2, and a profile that fails another condition of R8
cause 7. Nothing is latched. That a profile with `std` neither 0 nor 1 is held to the conditions of 1 is the model's choice
(log 18). -/
def Obligations.InitRefusalCauses : Prop :=
  (∀ (s : State) (std spcc : Nat), s.phase = .active →
    exec (.init std spcc) s = .next { s with fault := 0x00006011, phase := .halted, tickEnable := false }) ∧
  (∀ (s : State) (std spcc : Nat), s.phase = .unconfigured ∨ s.phase = .configured →
    ¬ (std = 0 ∧ spcc = 3) → ¬ (std = 0 ∧ spcc = 4) → ¬ (std = 1 ∧ spcc = 4) →
    exec (.init std spcc) s = .next { s with fault := 0x00004011, phase := .halted, tickEnable := false }) ∧
  (∀ (table : Mode → Profile) (s : State) (std spcc : Nat) (m : Mode),
    s.phase = .unconfigured ∨ s.phase = .configured → modeOf std spcc = some m →
    (4092 < (table m).lineWidth.toNat * 2 →
      initWith table std spcc s = .next { s with fault := 0x00002011, phase := .halted, tickEnable := false }) ∧
    ((table m).lineWidth.toNat * 2 ≤ 4092 → wellFormedProfile (table m) = false →
      initWith table std spcc s = .next { s with fault := 0x00007011, phase := .halted, tickEnable := false }))

/-- R256, R257: a legal `BEGIN`. Unless the oscillator is busy (configured at another frequency and held by another
consumer) it runs at the plan's frequency, `R0 = 1`; busy, it is left alone, `R0 = 2`, `LASTERR = 2`, and the engine
starts all the same. -/
def Obligations.BeginStartsEngine : Prop :=
  ∀ s : State, s.phase = .configured → s.plan.valid = true →
    let started := { s with
      fb0 := [], fb1 := [], fbValid := true, sb0 := List.replicate s.prof.lineWidth.toNat none,
      sb1 := List.replicate s.prof.lineWidth.toNat none, sbValid := true, lineCounter := 0, frameCount := 0,
      swapCount := 0, frontSel := false, ready := false, fillSel := false, wakePending := false, out := [],
      oscHeld := true, outEnable := true, tickEnable := true, phase := .active }
    (s.oscFreq = s.plan.realFreq →
      exec .beginEngine s = .next { started with r0 := 1, r1 := s.plan.realFreq, lastErr := 0 }) ∧
    (s.oscFreq ≠ s.plan.realFreq → s.oscFreq = 0 ∨ s.oscExtRefs = 0 →
      exec .beginEngine s = .next { started with
        oscFreq := s.plan.realFreq, oscPlan := ⟨s.plan.d, s.plan.n, s.plan.b, s.plan.a⟩,
        r0 := 1, r1 := s.plan.realFreq, lastErr := 0 }) ∧
    (s.oscFreq ≠ s.plan.realFreq → s.oscFreq ≠ 0 → 0 < s.oscExtRefs →
      exec .beginEngine s = .next { started with r0 := 2, r1 := s.oscFreq, lastErr := 2 })

/-- R255: `BEGIN` in ACTIVE raises ConfigurationError cause 1; in UNCONFIGURED, or CONFIGURED with an invalid plan,
cause 5. -/
def Obligations.BeginRefusalCauses : Prop :=
  (∀ s : State, s.phase = .active →
    exec .beginEngine s = .next { s with fault := 0x00001021, phase := .halted, tickEnable := false }) ∧
  (∀ s : State, s.phase = .unconfigured ∨ s.phase = .configured ∧ s.plan.valid = false →
    exec .beginEngine s = .next { s with fault := 0x00005021, phase := .halted, tickEnable := false })

/-- R260, R261: `TEARDOWN` in CONFIGURED and ACTIVE leaves exactly this; in UNCONFIGURED only `LASTERR` is written. -/
def Obligations.TeardownLeaves : Prop :=
  (∀ s : State, s.phase = .configured ∨ s.phase = .active →
    exec .teardown s = .next { s with
      tickEnable := false, outEnable := false, oscHeld := false,
      oscFreq := if s.oscHeld = true ∧ s.oscExtRefs = 0 then 0 else s.oscFreq,
      sbValid := false, sb0 := [], sb1 := [], fbValid := false, fb0 := [], fb1 := [], phase := .unconfigured,
      profileValid := false, std := 0, spcc := 0, prof := ⟨0, 0, 0, 0, 0, 0, 0, 0, 0, 0, 0, 0⟩,
      plan := ⟨false, 0, 0, 0, 0, 0, 0⟩, ready := false, wakePending := false, lastErr := 0 }) ∧
  (∀ s : State, s.phase = .unconfigured → exec .teardown s = .next { s with lastErr := 0 })

/-! ### The clock synthesizer -/

/-- R131, R132: outside HALTED, `CS.COARSE` answers the least divider of 0..31 whose multiplied frequency
`A0·2·(d+2)` lies in the band, or ArithmeticInfeasible when there is none or `A0 = 0`. -/
def Obligations.CoarseCommandResult : Prop :=
  decodeCommand 0x20000000 = .ok .csCoarse ∧ ∀ s : State, s.phase ≠ .halted →
    let t := s.a0.toNat
    let band : Nat → Prop := fun d => 350000000 ≤ t * (2 * (d + 2)) ∧ t * (2 * (d + 2)) ≤ 500000000
    (∀ d, t ≠ 0 → d ≤ 31 → band d → (∀ d' < d, ¬ band d') →
      exec .csCoarse s = .next { s with
        r0 := 1, r1 := BitVec.ofNat 32 d, r2 := BitVec.ofNat 32 (t * (2 * (d + 2))), lastErr := 0 }) ∧
    (t = 0 ∨ (∀ d ≤ 31, ¬ band d) → exec .csCoarse s = .next { s with r0 := 0, r1 := 0, r2 := 0, lastErr := 3 })

/-- R134: with the default parameters the coarse search succeeds exactly for these targets. -/
def Obligations.CoarseSupportRange : Prop :=
  ∀ t : Nat, (coarse t).isSome = true ↔
    (5303031 ≤ t ∧ t ≤ 83333333) ∨ (87500000 ≤ t ∧ t ≤ 125000000)

/-- Stage 1 of R133: the least divider reaching `BMIN`, if it stays within `BMAX`. -/
def coarseStage1 (t : Nat) : Option Nat :=
  ((List.range 32).find? fun d => decide (350000000 ≤ t * (2 * (d + 2)))).filter fun d =>
    decide (t * (2 * (d + 2)) ≤ 500000000)

/-- Stage 2 of R133: the greatest divider within `BMAX`, if it reaches `BMIN`. -/
def coarseStage2 (t : Nat) : Option Nat :=
  ((List.range 32).reverse.find? fun d => decide (t * (2 * (d + 2)) ≤ 500000000)).filter fun d =>
    decide (350000000 ≤ t * (2 * (d + 2)))

/-- R133: the two-stage reading of the source's sentence and the least element of the band agree for every target, and
stage 2 holds only when stage 1 does. -/
def Obligations.CoarseStagesAgree : Prop :=
  ∀ t : Nat, coarse t = (coarseStage1 t <|> coarseStage2 t) ∧ (coarseStage1 t = none → coarseStage2 t = none)

/-- R136, R137, R138: what the fine search answers, for every source, target, `D`, `min` and `max`, in exact arithmetic. -/
def Obligations.FineSearchFollowsRules : Prop :=
  ∀ src t dmax lo hi : Nat,
    (t = 0 ∨ dmax < 3 → fine src t dmax lo hi = ⟨0, 0, 0, 0⟩) ∧
    (0 < t → 3 ≤ dmax →
      let n := src / t
      let r := src % t
      let err : Nat → Nat → Nat := fun b c => absDiff (t * b) (r * c)
      ((2 * (dmax - 1) - 1) * t < 2 * (dmax - 1) * r →
        (lo ≤ n + 1 ∧ n + 1 < hi → fine src t dmax lo hi = ⟨src * 2 / ((n + 1) * 2), n + 1, 0, 2⟩) ∧
        (¬ (lo ≤ n + 1 ∧ n + 1 < hi) → fine src t dmax lo hi = ⟨0, 0, 0, 0⟩)) ∧
      (2 * (dmax - 1) * r ≤ (2 * (dmax - 1) - 1) * t →
        ∃ a b, 2 ≤ a ∧ a < dmax ∧ (∀ c b', 2 ≤ c → c < dmax → err b a ≤ err b' c) ∧
          (∀ c b', 2 ≤ c → c < a → err b a < err b' c) ∧ (∀ b', err b' a = err b a → b' ≤ b) ∧
          (lo ≤ n ∧ n < hi ∧ n ≠ 0 → fine src t dmax lo hi = ⟨src * a / (n * a + b), n, b, a⟩) ∧
          (¬ (lo ≤ n ∧ n < hi ∧ n ≠ 0) → fine src t dmax lo hi = ⟨0, 0, 0, 0⟩)))

/-- R135: outside HALTED, `CS.FINE` puts what the fine search answers in `R0..R3`; the sentinel 0 is reported as
ArithmeticInfeasible. -/
def Obligations.FineCommandResult : Prop :=
  decodeCommand 0x21000000 = .ok .csFine ∧ ∀ s : State, s.phase ≠ .halted →
    let q := fine s.a0.toNat s.a1.toNat s.a2.toNat s.a3.toNat s.a4.toNat
    (q.f = 0 → exec .csFine s = .next { s with r0 := 0, r1 := 0, r2 := 0, r3 := 0, lastErr := 3 }) ∧
    (q.f ≠ 0 → exec .csFine s = .next { s with
      r0 := BitVec.ofNat 32 q.f, r1 := BitVec.ofNat 32 q.n, r2 := BitVec.ofNat 32 q.b, r3 := BitVec.ofNat 32 q.a,
      lastErr := 0 })

/-- R138: 0 is a safe sentinel: whenever the search does not fail, the frequency it reconstructs is not 0. Success is
told by `n`, which failure leaves 0. -/
def Obligations.FineSentinelIsSafe : Prop :=
  ∀ src t dmax lo hi : Nat, (fine src t dmax lo hi).f = 0 ↔ (fine src t dmax lo hi).n = 0

/-- R139: on success `| s/t - (n + b/a) | < 1/(D-1)`, said without division. -/
def Obligations.FineErrorBound : Prop :=
  ∀ src t dmax lo hi : Nat,
    let q := fine src t dmax lo hi
    q.f ≠ 0 → absDiff (src * q.a) (t * (q.n * q.a + q.b)) * (dmax - 1) < t * q.a

/-- R140: CS.SYNTH writes the plan and nothing else, for every target: invalid and zero (but for the target) when the
coarse search fails, else the divider, the coefficients and `F_REF·(n·a+b) div (a·K(d))`. With the parameters of this
machine (log 9) the fine search of a target the coarse search accepts never fails. The target operand is the `micro`
move's (log 3). -/
def Obligations.SynthWritesPlan : Prop :=
  ∀ s : State,
    let t := s.uop.target.toNat
    (coarse t = none → exec .csSynth s = .next { s with plan := ⟨false, s.uop.target, 0, 0, 0, 0, 0⟩ }) ∧
    (∀ d, coarse t = some d →
      let q := fine (t * (2 * (d + 2))) 40000000 65536 4 68
      q.f ≠ 0 ∧ exec .csSynth s = .next { s with
        plan := ⟨true, s.uop.target, BitVec.ofNat 8 d, BitVec.ofNat 32 q.n, BitVec.ofNat 32 q.b, BitVec.ofNat 32 q.a,
          BitVec.ofNat 32 (40000000 * (q.n * q.a + q.b) / (q.a * (2 * (d + 2))))⟩ })

/-- R141: the three plans with the default parameters. -/
def Obligations.DefaultPlans : Prop :=
  synthPlan 10738636 = ⟨true, 10738636, 15, 9, 4703, 36788, 10738636⟩ ∧
  synthPlan 14318182 = ⟨true, 14318182, 11, 9, 27, 88, 14318181⟩ ∧
  synthPlan 17734475 = ⟨true, 17734475, 8, 8, 29676, 34219, 17734474⟩ ∧
  ratioK 15 = 34 ∧ ratioK 11 = 26 ∧ ratioK 8 = 20 ∧ 10738636 * ratioK 15 = 365113624 ∧
  14318182 * ratioK 11 = 372272732 ∧ 17734475 * ratioK 8 = 354689500

/-- R142: the three cases of CS.APPLY. The pair it returns is left in `uopResult` when it stands alone (log 3). -/
def Obligations.ApplyPlanCases : Prop :=
  ∀ s : State,
    let f := s.plan.realFreq
    let refs := s.oscExtRefs + (if s.oscHeld then 1 else 0)
    (s.oscFreq = f → exec .csApply s = .next { s with uopResult := ⟨1, f⟩ }) ∧
    (s.oscFreq ≠ f → s.oscFreq ≠ 0 → 1 < refs → exec .csApply s = .next { s with uopResult := ⟨2, s.oscFreq⟩ }) ∧
    (s.oscFreq ≠ f → s.oscFreq = 0 ∨ refs ≤ 1 → exec .csApply s = .next { s with
      oscFreq := f, oscPlan := ⟨s.plan.d, s.plan.n, s.plan.b, s.plan.a⟩, uopResult := ⟨1, f⟩ })

/-- R143, R287: once the resource runs at the plan's frequency, no move of the spec changes the frequency or the plan as
long as the block keeps its reference, in ACTIVE and in HALTED; and by the invariant it holds one in no other phase. -/
def Obligations.AppliedFrequencyHolds : Prop :=
  (∀ s : State, s.Inv → s.oscHeld = true → s.phase = .active ∨ s.phase = .halted) ∧
  ∀ s t : State, s.phase = .active ∨ s.phase = .halted → s.oscHeld = true → s.plan.realFreq ≠ 0 → s.oscFreq = s.plan.realFreq →
    s.specMove = true → step s = .next t → t.oscHeld = true → t.oscFreq = s.oscFreq ∧ t.plan = s.plan

/-- R303: the moves of the other oscillator consumers; one that is not enabled changes nothing (log 12). -/
def Obligations.OscillatorConsumerMoves : Prop :=
  ∀ (s : State) (rest : List Move),
    let s' := { s with sched := rest }
    (s.sched = .extAcq :: rest → step s = .next { s' with oscExtRefs := s.oscExtRefs + 1 }) ∧
    (s.sched = .extRel :: rest →
      (s.oscExtRefs = 0 → step s = .next s') ∧
      (s.oscExtRefs = 1 → s.oscHeld = false → step s = .next { s' with oscExtRefs := 0, oscFreq := 0 }) ∧
      (1 < s.oscExtRefs ∨ s.oscExtRefs = 1 ∧ s.oscHeld = true →
        step s = .next { s' with oscExtRefs := s.oscExtRefs - 1 })) ∧
    (∀ f, s.sched = .extCfg f :: rest →
      (s.oscExtRefs = 0 ∨ f = 0 ∨ s.oscFreq = f → step s = .next s') ∧
      (s.oscFreq ≠ 0 → 1 < s.oscExtRefs ∨ s.oscExtRefs = 1 ∧ s.oscHeld = true → step s = .next s') ∧
      (0 < s.oscExtRefs → f ≠ 0 → s.oscFreq = 0 ∨ s.oscExtRefs = 1 ∧ s.oscHeld = false →
        step s = .next { s' with oscFreq := f }))

/-! ### The pixel encoder and the line operations -/

/-- The sample word of a palette entry's phase `k`: bits `31-8k : 24-8k` in the upper byte (R162, R11). -/
def phaseWord (e : BitVec 32) (k : Nat) : Sample := (e.extractLsb' (24 - 8 * k) 8).zeroExtend 16 <<< 8

/-- Position `p` of an encoded row with first position `o` (R163): inside, the sample of its pixel, unspecified where the
pixel is (R168); outside, the element as before. -/
def encodedAt (s : State) (row : Nat) (v : Bool) (spp spcc o : Nat) (before : Line) (p : Nat) : Option (Option Sample) :=
  if o ≤ p ∧ p < o + 256 * spp then
    some ((fbRead s s.frontSel row ((p - o) / spp)).map fun i => phaseWord (Config.palRom v i) ((p - o) % spcc))
  else before[p]?

/-- R164, R165, R166, R168: the three encoders, on a row that exists and a buffer the row fits, write exactly the
`256·spp` positions from `activeStart` of `SB[j]`, whose length stays, and nothing else. -/
def Obligations.EncodersWriteTheRow : Prop :=
  ∀ s : State,
    let o := s.prof.activeStart.toNat
    let j := s.uop.j
    s.fbValid = true → s.uop.row < s.prof.activeLines.toNat → s.sbValid = true →
    (o + 512 ≤ (sbOf s j).length →
      ∃ t, exec .peEncN3 s = .next t ∧ t = setSb s j (sbOf t j) ∧ (sbOf t j).length = (sbOf s j).length ∧
        ∀ p, p < (sbOf s j).length → (sbOf t j)[p]? = encodedAt s s.uop.row false 2 3 o (sbOf s j) p) ∧
    (o + 768 ≤ (sbOf s j).length →
      (∃ t, exec .peEncN4 s = .next t ∧ t = setSb s j (sbOf t j) ∧ (sbOf t j).length = (sbOf s j).length ∧
        ∀ p, p < (sbOf s j).length → (sbOf t j)[p]? = encodedAt s s.uop.row false 3 4 o (sbOf s j) p) ∧
      (∃ t, exec .peEncP4 s = .next t ∧ t = setSb s j (sbOf t j) ∧ (sbOf t j).length = (sbOf s j).length ∧
        ∀ p, p < (sbOf s j).length → (sbOf t j)[p]? = encodedAt s s.uop.row s.uop.parity 3 4 o (sbOf s j) p))

/-- BURST_ROM (R187): the level of phase `k` in a mode, on a line of that parity. -/
def burstLevelOf (m : Mode) (parity : Bool) (k : Nat) : Option Byte :=
  match m, parity with
  | .ntsc3, false => ([20, 28, 12] : List Byte)[k]?
  | .ntsc4, false => ([20, 30, 20, 10] : List Byte)[k]?
  | .pal4, false => ([27, 13, 13, 27] : List Byte)[k]?
  | .pal4, true => ([13, 13, 27, 27] : List Byte)[k]?
  | .ntsc3, true => none
  | .ntsc4, true => none

/-- R186, R187: LINE.ACTIVE with a latched profile of R7, on existing buffers: sync, blanking, burst, blanking, the
encoded row, blanking, at every position of the line, and nothing else changes. Parity is 0 for NTSC. -/
def Obligations.LineActiveSamples : Prop :=
  ∀ (s : State) (m : Mode),
    let p := s.prof
    let j := s.uop.j
    let spp := if m = .ntsc3 then 2 else 3
    let spcc := if m = .ntsc3 then 3 else 4
    stateMode s = some m → p.spp.toNat = spp → p.spcc.toNat = spcc → (s.uop.parity = true → m = .pal4) →
    p.hsync.toNat ≤ p.burstStart.toNat → p.burstStart.toNat + p.burstWidth.toNat ≤ p.activeStart.toNat →
    p.activeStart.toNat + 256 * spp ≤ p.lineWidth.toNat →
    s.fbValid = true → s.uop.row < p.activeLines.toNat → s.sbValid = true →
    (sbOf s j).length = p.lineWidth.toNat →
    ∃ t, exec .lineActive s = .next t ∧ t = setSb s j (sbOf t j) ∧ (sbOf t j).length = p.lineWidth.toNat ∧
      ∀ x, x < p.lineWidth.toNat →
        (x < p.hsync.toNat → (sbOf t j)[x]? = some (some 0x0000)) ∧
        (p.hsync.toNat ≤ x → x < p.burstStart.toNat → (sbOf t j)[x]? = some (some 0x1400)) ∧
        (p.burstStart.toNat ≤ x → x < p.burstStart.toNat + p.burstWidth.toNat →
          ∃ l, burstLevelOf m s.uop.parity ((x - p.burstStart.toNat) % spcc) = some l ∧
            (sbOf t j)[x]? = some (some (l.zeroExtend 16 <<< 8))) ∧
        (p.burstStart.toNat + p.burstWidth.toNat ≤ x → x < p.activeStart.toNat →
          (sbOf t j)[x]? = some (some 0x1400)) ∧
        (p.activeStart.toNat ≤ x → x < p.activeStart.toNat + 256 * spp →
          (sbOf t j)[x]? = encodedAt s s.uop.row (decide (m = .pal4) && s.uop.parity) spp spcc p.activeStart.toNat
            (sbOf s j) x) ∧
        (p.activeStart.toNat + 256 * spp ≤ x → (sbOf t j)[x]? = some (some 0x1400))

/-- R188: LINE.BLANK on an existing buffer: `hsync` samples of sync level, blanking for the rest, nothing else. -/
def Obligations.LineBlankSamples : Prop :=
  ∀ s : State, s.sbValid = true → (sbOf s s.uop.j).length = s.prof.lineWidth.toNat →
    s.prof.hsync.toNat ≤ s.prof.lineWidth.toNat →
    ∃ t, exec .lineBlank s = .next t ∧ t = setSb s s.uop.j (sbOf t s.uop.j) ∧
      (sbOf t s.uop.j).length = s.prof.lineWidth.toNat ∧
      ∀ x, x < s.prof.lineWidth.toNat →
        (sbOf t s.uop.j)[x]? = some (some (if x < s.prof.hsync.toNat then 0x0000 else 0x1400))

/-- R189: LINE.VSYNC on an existing buffer: `hsyncLong` samples of sync level, blanking for the rest, nothing else. -/
def Obligations.LineVsyncSamples : Prop :=
  ∀ s : State, s.sbValid = true → (sbOf s s.uop.j).length = s.prof.lineWidth.toNat →
    s.prof.hsyncLong.toNat ≤ s.prof.lineWidth.toNat →
    ∃ t, exec .lineVsync s = .next t ∧ t = setSb s s.uop.j (sbOf t s.uop.j) ∧
      (sbOf t s.uop.j).length = s.prof.lineWidth.toNat ∧
      ∀ x, x < s.prof.lineWidth.toNat →
        (sbOf t s.uop.j)[x]? = some (some (if x < s.prof.hsyncLong.toNat then 0x0000 else 0x1400))

/-- R190, R191: LINE.PALSYNC for `t` in 0..7 on an existing buffer: each half of the line starts with a sync pulse, long
where the table says so (rows 3, 4 both halves, row 5 the first half), nothing else. -/
def Obligations.LinePalsyncSamples : Prop :=
  ∀ s : State,
    let p := s.prof
    let j := s.uop.j
    let half := p.lineWidth.toNat / 2
    let w1 := if s.uop.t = 3 ∨ s.uop.t = 4 ∨ s.uop.t = 5 then p.hsyncLong.toNat else p.hsyncShort.toNat
    let w2 := if s.uop.t = 3 ∨ s.uop.t = 4 then p.hsyncLong.toNat else p.hsyncShort.toNat
    s.uop.t < 8 → s.sbValid = true → (sbOf s j).length = p.lineWidth.toNat →
    p.hsyncLong.toNat ≤ half → p.hsyncShort.toNat ≤ half →
    ∃ t, exec .linePalsync s = .next t ∧ t = setSb s j (sbOf t j) ∧ (sbOf t j).length = p.lineWidth.toNat ∧
      ∀ x, x < p.lineWidth.toNat →
        (sbOf t j)[x]? =
          some (some (if x < w1 ∨ half ≤ x ∧ x < half + w2 then 0x0000 else 0x1400))

/-- R184, R185: the line program of the default profiles, line index by line index. -/
def Obligations.LineProgramTables : Prop :=
  (∀ m i, m = .ntsc3 ∨ m = .ntsc4 → i < 262 → lineProgram (profileOf m) i =
    if i ≤ 239 then .active i false else if i ≤ 244 then .blank else if i ≤ 247 then .vsync else .blank) ∧
  (∀ i, i < 312 → lineProgram (profileOf .pal4) i =
    if i ≤ 31 then .blank else if i ≤ 271 then .active (i - 32) (decide (i % 2 = 1))
    else if i ≤ 303 then .blank else .palsync (i - 304))

/-! ### The sequencer -/

/-- R194: SEQ.ADVANCE, the three cases, and nothing else changes. -/
def Obligations.SeqAdvanceTransition : Prop :=
  ∀ s : State,
    (s.lineCounter.toNat + 1 ≠ s.prof.totalLines.toNat →
      exec .seqAdvance s = .next { s with lineCounter := BitVec.ofNat 16 (s.lineCounter.toNat + 1) }) ∧
    (s.lineCounter.toNat + 1 = s.prof.totalLines.toNat → s.ready = false →
      exec .seqAdvance s = .next { s with lineCounter := 0, frameCount := s.frameCount + 1 }) ∧
    (s.lineCounter.toNat + 1 = s.prof.totalLines.toNat → s.ready = true →
      exec .seqAdvance s = .next { s with
        lineCounter := 0, frameCount := s.frameCount + 1, frontSel := !s.frontSel, ready := false,
        swapCount := s.swapCount + 1, wakePending := true })

/-- R221: FB.ALLOC makes every element of `FB[h]` unspecified and changes nothing else. -/
def Obligations.FbAllocUnspecified : Prop :=
  ∀ s : State, ∃ t, exec .fbAlloc s = .next t ∧ (∀ row col, fbRead t s.uop.h row col = none) ∧
    fbOf t (!s.uop.h) = fbOf s (!s.uop.h) ∧ t = setFb s s.uop.h (fbOf t s.uop.h)

/-- R181: one TICK, from every state of the invariant with the interrupt enabled. It appends the streamed line to OUT
(each element that holds a value as that value), refills `SB[fillSel]` by the line operation R183 selects, inverts
`fillSel`, advances as R194 says, and changes nothing else. An event while `tickEnable = 0` changes nothing (from any state). -/
def Obligations.TickWholeStep : Prop :=
  (∀ (s : State) (rest : List Move), s.tickEnable = false → s.sched = .tick :: rest →
    step s = .next { s with sched := rest }) ∧
  ∀ (s : State) (rest : List Move), s.Inv → s.tickEnable = true → s.sched = .tick :: rest →
    ∃ (t u : State) (words : List Sample), step s = .next t ∧
      t.out = s.out ++ [words] ∧ words.length = s.prof.lineWidth.toNat ∧
      (∀ (p : Nat) (v : Sample), (sbOf s s.fillSel)[p]? = some (some v) → words[p]? = some v) ∧
      runLine (lineProgram s.prof s.lineCounter.toNat) s.fillSel s = .next u ∧
      sbOf t s.fillSel = sbOf u s.fillSel ∧ sbOf t (!s.fillSel) = sbOf s (!s.fillSel) ∧
      t.fillSel = !s.fillSel ∧
      t.lineCounter = (advance s).lineCounter ∧ t.frameCount = (advance s).frameCount ∧
      t.frontSel = (advance s).frontSel ∧ t.ready = (advance s).ready ∧ t.swapCount = (advance s).swapCount ∧
      t.wakePending = (advance s).wakePending ∧
      t = { s with
        sched := rest, out := t.out, draws := t.draws, sb0 := t.sb0, sb1 := t.sb1, fillSel := t.fillSel,
        lineCounter := t.lineCounter, frameCount := t.frameCount, frontSel := t.frontSel, ready := t.ready,
        swapCount := t.swapCount, wakePending := t.wakePending }

/-- R182: the line a tick produces is the line the second tick after it appends to OUT. -/
def Obligations.LineStreamedTwoTicksLater : Prop :=
  ∀ (s : State) (rest : List Move), s.Inv → s.tickEnable = true → s.sched = .tick :: .tick :: .tick :: rest →
    ∃ (t1 t3 : State) (x y z : List Sample), step s = .next t1 ∧ runsTo 3 s t3 ∧ t3.out = s.out ++ [x, y, z] ∧
      ∀ (p : Nat) (v : Sample), (sbOf t1 s.fillSel)[p]? = some (some v) → z[p]? = some v

/-- R195 (a): from line 0, exactly `totalLines` ticks advance `frameCount` by 1 and return `lineCounter` to 0. -/
def Obligations.FieldOfTicks : Prop :=
  ∀ (s : State) (rest : List Move), s.Inv → s.tickEnable = true → s.lineCounter = 0 →
    s.sched = List.replicate s.prof.totalLines.toNat .tick ++ rest →
    ∃ t, runsTo s.prof.totalLines.toNat s t ∧ t.lineCounter = 0 ∧ t.frameCount = s.frameCount + 1 ∧ t.sched = rest ∧
      t.out.length = s.out.length + s.prof.totalLines.toNat

/-- R231, R232: a `COMMIT` issued at any line, the ticks to the end of the field, and a turn of the producer: the commit
has completed, exactly one swap has occurred, and the front and back buffers are exchanged. -/
def Obligations.CommitCompletesAfterOneSwap : Prop :=
  ∀ (s : State) (ops : List ProdOp) (rest : List Move), s.Inv → s.phase = .active → s.prodWaiting = false →
    let n := s.prof.totalLines.toNat - s.lineCounter.toNat
    s.prog = .write 0 0x12000000 :: ops →
    s.sched = .producer :: (List.replicate n .tick ++ .producer :: rest) →
    ∃ t, runsTo (n + 2) s t ∧ t.swapCount = s.swapCount + 1 ∧ t.frontSel = !s.frontSel ∧
      t.frameCount = s.frameCount + 1 ∧ t.lineCounter = 0 ∧ t.ready = false ∧ t.wakePending = false ∧
      t.prodWaiting = false ∧ t.lastErr = 0 ∧ t.prog = ops ∧ t.sched = rest

/-! ### Rules of the whole machine -/

/-- A tick at the wrap with a committed frame: the one move that swaps (R194). -/
def swapTick (s : State) : Prop :=
  s.sched.head? = some .tick ∧ s.tickEnable = true ∧ s.lineCounter.toNat + 1 = s.prof.totalLines.toNat ∧ s.ready = true

/-- A tick at the wrap: the one move that counts a field (R194). -/
def wrapTick (s : State) : Prop :=
  s.sched.head? = some .tick ∧ s.tickEnable = true ∧ s.lineCounter.toNat + 1 = s.prof.totalLines.toNat

/-- A move that begins the engine's life anew: a reset, or a `BEGIN` from CONFIGURED. -/
def startsOver (s t : State) : Prop :=
  s.sched.head? = some .reset ∨ s.sched.head? = some .producer ∧ s.phase = .configured ∧ t.phase = .active

/-- R45, R35, R195 (b): the front and back buffers are exchanged only by a tick at the wrap with a committed frame, and so
does `swapCount` increase, by 1; otherwise `frontSel` and `swapCount` change only to 0, by a `BEGIN` or a reset. -/
def Obligations.SwapOnlyAtTheWrap : Prop :=
  ∀ s t : State, s.specMove = true → step s = .next t →
    (t.frontSel ≠ s.frontSel ∨ t.swapCount ≠ s.swapCount →
      (swapTick s ∧ t.frontSel = (!s.frontSel) ∧ t.ready = false ∧ t.swapCount = s.swapCount + 1 ∧
        t.wakePending = true ∧ t.lineCounter = 0) ∨
      (startsOver s t ∧ t.frontSel = false ∧ t.swapCount = 0)) ∧
    (swapTick s → t.frontSel = (!s.frontSel))

/-- R34: `ready` is set only by `COMMIT` at its issue, and cleared only by the swap, `BEGIN`, `TEARDOWN` and reset. -/
def Obligations.ReadySetOnlyByCommit : Prop :=
  State.reset.ready = false ∧ ∀ s t : State, s.specMove = true → step s = .next t →
    (s.ready = false → t.ready = true →
      s.sched.head? = some .producer ∧ s.prog.head? = some (.write 0 0x12000000) ∧ s.phase = .active ∧
      t.prodWaiting = true) ∧
    (s.ready = true → t.ready = false →
      (s.sched.head? = some .tick ∧ t.swapCount = s.swapCount + 1) ∨ s.sched.head? = some .reset ∨
      (s.sched.head? = some .producer ∧
        (s.prog.head? = some (.write 0 0x02000000) ∨ s.prog.head? = some (.write 0 0x03000000))))

/-- R45, R226: in ACTIVE no turn of the producer that leaves the engine configured moves the front buffer or changes any
element of it: the producer writes only the back buffer. -/
def Obligations.ProducerLeavesFrontBuffer : Prop :=
  ∀ s t : State, s.sched.head? = some .producer → s.phase = .active → step s = .next t → t.phase ≠ .unconfigured →
    t.frontSel = s.frontSel ∧ ∀ row col, fbRead t s.frontSel row col = fbRead s s.frontSel row col

/-- R82: no tick reads the back buffer. Two states alike but for the back buffer's contents are alike but for them after a
tick, OUT and both sample buffers included. -/
def Obligations.TickIgnoresBackBuffer : Prop :=
  ∀ s s' t : State, s.sched.head? = some .tick → s.sameBut s' (!s.frontSel) → step s = .next t →
    ∃ t', step s' = .next t' ∧ t.sameBut t' (!s.frontSel) ∧ t'.out = t.out ∧ t'.sb0 = t.sb0 ∧ t'.sb1 = t.sb1

/-- The frame-buffer memories keep their canonical form (the model's representation, log 16) in every step, the model's
own `micro` moves included. -/
def Obligations.FrameMemoryStaysCanonical : Prop :=
  ∀ s t : State, Memory.wf s.fb0 → Memory.wf s.fb1 → step s = .next t → Memory.wf t.fb0 ∧ Memory.wf t.fb1

/-- The invariant (R28 to R46) holds at reset. -/
def Obligations.InvariantAtReset : Prop := State.reset.Inv

/-- Every move of the spec keeps the invariant (R28 to R46), from every state that meets it. -/
def Obligations.InvariantKept : Prop :=
  ∀ s t : State, s.Inv → s.specMove = true → step s = .next t → t.Inv

/-- R289: from every state of the invariant every move of the spec is a next state: no line operation, no encoder and no
store reaches an element that does not exist. -/
def Obligations.SpecMovesNeverStop : Prop :=
  ∀ s : State, s.Inv → s.specMove = true → ∃ t, step s = .next t

/-- R32, R195 (a): `frameCount` changes only by a tick at the wrap, which adds 1 (mod 2^32) and returns the line counter to
0, or to 0 by a `BEGIN` or a reset; and every tick at the wrap counts. -/
def Obligations.FrameCountOnlyAtTheWrap : Prop :=
  ∀ s t : State, s.specMove = true → step s = .next t →
    (t.frameCount ≠ s.frameCount →
      (wrapTick s ∧ t.frameCount = s.frameCount + 1 ∧ t.lineCounter = 0) ∨ (startsOver s t ∧ t.frameCount = 0)) ∧
    (wrapTick s → t.frameCount = s.frameCount + 1) ∧ (startsOver s t → t.frameCount = 0)

/-- The micro-operation that is each line operation (R107, R183). -/
def lineInstr : LineOp → Instr
  | .active _ _ => .lineActive
  | .blank => .lineBlank
  | .vsync => .lineVsync
  | .palsync _ => .linePalsync

/-- `u` holds the operands of a line operation on `SB[j]`; those it does not have are free. -/
def holdsOperands (op : LineOp) (j : Bool) (u : MicroOperands) : Prop :=
  u.j = j ∧
    match op with
    | .active row parity => u.row = row ∧ u.parity = parity
    | .blank => True
    | .vsync => True
    | .palsync t => u.t = t

/-- R181, R183: the line operation a TICK runs on `SB[j]` is exec of the micro-operation of that name, on the same state
with the operands in `uop` (the model's way of naming them, log 3): the same next state but for `uop`, or the same stop.
With the statements about LINE.ACTIVE, LINE.BLANK, LINE.VSYNC and LINE.PALSYNC it says what samples a TICK writes. -/
def Obligations.TickRunsTheMicroOperation : Prop :=
  ∀ (s : State) (op : LineOp) (j : Bool) (u : MicroOperands), holdsOperands op j u →
    exec (lineInstr op) { s with uop := u } = mapNext (fun t => { t with uop := u }) (runLine op j s)
end

