-- ==== Sys2Proof/Laws/State.lean ====
section
/-!
SUPPORT. One lemma per field for each shared update of the state: what the field is after it. No later proof unfolds a
record update.
-/

namespace Sys2Proof.Machine

open Sys2Proof

/-! ### setFb: replacing the contents of one frame buffer -/

section
variable (s : State) (h : Bool) (m : Memory)

@[simp] theorem setFb_a0 : (setFb s h m).a0 = s.a0 := rfl
@[simp] theorem setFb_a1 : (setFb s h m).a1 = s.a1 := rfl
@[simp] theorem setFb_a2 : (setFb s h m).a2 = s.a2 := rfl
@[simp] theorem setFb_a3 : (setFb s h m).a3 = s.a3 := rfl
@[simp] theorem setFb_a4 : (setFb s h m).a4 = s.a4 := rfl
@[simp] theorem setFb_r0 : (setFb s h m).r0 = s.r0 := rfl
@[simp] theorem setFb_r1 : (setFb s h m).r1 = s.r1 := rfl
@[simp] theorem setFb_r2 : (setFb s h m).r2 = s.r2 := rfl
@[simp] theorem setFb_r3 : (setFb s h m).r3 = s.r3 := rfl
@[simp] theorem setFb_r4 : (setFb s h m).r4 = s.r4 := rfl
@[simp] theorem setFb_fault : (setFb s h m).fault = s.fault := rfl
@[simp] theorem setFb_lastErr : (setFb s h m).lastErr = s.lastErr := rfl
@[simp] theorem setFb_phase : (setFb s h m).phase = s.phase := rfl
@[simp] theorem setFb_std : (setFb s h m).std = s.std := rfl
@[simp] theorem setFb_spcc : (setFb s h m).spcc = s.spcc := rfl
@[simp] theorem setFb_profileValid : (setFb s h m).profileValid = s.profileValid := rfl
@[simp] theorem setFb_prof : (setFb s h m).prof = s.prof := rfl
@[simp] theorem setFb_plan : (setFb s h m).plan = s.plan := rfl
@[simp] theorem setFb_lineCounter : (setFb s h m).lineCounter = s.lineCounter := rfl
@[simp] theorem setFb_frameCount : (setFb s h m).frameCount = s.frameCount := rfl
@[simp] theorem setFb_swapCount : (setFb s h m).swapCount = s.swapCount := rfl
@[simp] theorem setFb_ready : (setFb s h m).ready = s.ready := rfl
@[simp] theorem setFb_frontSel : (setFb s h m).frontSel = s.frontSel := rfl
@[simp] theorem setFb_wakePending : (setFb s h m).wakePending = s.wakePending := rfl
@[simp] theorem setFb_prodWaiting : (setFb s h m).prodWaiting = s.prodWaiting := rfl
@[simp] theorem setFb_fillSel : (setFb s h m).fillSel = s.fillSel := rfl
@[simp] theorem setFb_tickEnable : (setFb s h m).tickEnable = s.tickEnable := rfl
@[simp] theorem setFb_outEnable : (setFb s h m).outEnable = s.outEnable := rfl
@[simp] theorem setFb_oscHeld : (setFb s h m).oscHeld = s.oscHeld := rfl
@[simp] theorem setFb_fb0 : (setFb s h m).fb0 = if h then s.fb0 else m := rfl
@[simp] theorem setFb_fb1 : (setFb s h m).fb1 = if h then m else s.fb1 := rfl
@[simp] theorem setFb_fbValid : (setFb s h m).fbValid = s.fbValid := rfl
@[simp] theorem setFb_sb0 : (setFb s h m).sb0 = s.sb0 := rfl
@[simp] theorem setFb_sb1 : (setFb s h m).sb1 = s.sb1 := rfl
@[simp] theorem setFb_sbValid : (setFb s h m).sbValid = s.sbValid := rfl
@[simp] theorem setFb_oscFreq : (setFb s h m).oscFreq = s.oscFreq := rfl
@[simp] theorem setFb_oscExtRefs : (setFb s h m).oscExtRefs = s.oscExtRefs := rfl
@[simp] theorem setFb_oscPlan : (setFb s h m).oscPlan = s.oscPlan := rfl
@[simp] theorem setFb_out : (setFb s h m).out = s.out := rfl
@[simp] theorem setFb_draws : (setFb s h m).draws = s.draws := rfl
@[simp] theorem setFb_rdata : (setFb s h m).rdata = s.rdata := rfl
@[simp] theorem setFb_uop : (setFb s h m).uop = s.uop := rfl
@[simp] theorem setFb_uopResult : (setFb s h m).uopResult = s.uopResult := rfl
@[simp] theorem setFb_program : (setFb s h m).program = s.program := rfl
@[simp] theorem setFb_prog : (setFb s h m).prog = s.prog := rfl
@[simp] theorem setFb_sched : (setFb s h m).sched = s.sched := rfl

end

/-! ### setSb: replacing the contents of one sample buffer -/

section
variable (s : State) (j : Bool) (l : Line)

@[simp] theorem setSb_a0 : (setSb s j l).a0 = s.a0 := rfl
@[simp] theorem setSb_a1 : (setSb s j l).a1 = s.a1 := rfl
@[simp] theorem setSb_a2 : (setSb s j l).a2 = s.a2 := rfl
@[simp] theorem setSb_a3 : (setSb s j l).a3 = s.a3 := rfl
@[simp] theorem setSb_a4 : (setSb s j l).a4 = s.a4 := rfl
@[simp] theorem setSb_r0 : (setSb s j l).r0 = s.r0 := rfl
@[simp] theorem setSb_r1 : (setSb s j l).r1 = s.r1 := rfl
@[simp] theorem setSb_r2 : (setSb s j l).r2 = s.r2 := rfl
@[simp] theorem setSb_r3 : (setSb s j l).r3 = s.r3 := rfl
@[simp] theorem setSb_r4 : (setSb s j l).r4 = s.r4 := rfl
@[simp] theorem setSb_fault : (setSb s j l).fault = s.fault := rfl
@[simp] theorem setSb_lastErr : (setSb s j l).lastErr = s.lastErr := rfl
@[simp] theorem setSb_phase : (setSb s j l).phase = s.phase := rfl
@[simp] theorem setSb_std : (setSb s j l).std = s.std := rfl
@[simp] theorem setSb_spcc : (setSb s j l).spcc = s.spcc := rfl
@[simp] theorem setSb_profileValid : (setSb s j l).profileValid = s.profileValid := rfl
@[simp] theorem setSb_prof : (setSb s j l).prof = s.prof := rfl
@[simp] theorem setSb_plan : (setSb s j l).plan = s.plan := rfl
@[simp] theorem setSb_lineCounter : (setSb s j l).lineCounter = s.lineCounter := rfl
@[simp] theorem setSb_frameCount : (setSb s j l).frameCount = s.frameCount := rfl
@[simp] theorem setSb_swapCount : (setSb s j l).swapCount = s.swapCount := rfl
@[simp] theorem setSb_ready : (setSb s j l).ready = s.ready := rfl
@[simp] theorem setSb_frontSel : (setSb s j l).frontSel = s.frontSel := rfl
@[simp] theorem setSb_wakePending : (setSb s j l).wakePending = s.wakePending := rfl
@[simp] theorem setSb_prodWaiting : (setSb s j l).prodWaiting = s.prodWaiting := rfl
@[simp] theorem setSb_fillSel : (setSb s j l).fillSel = s.fillSel := rfl
@[simp] theorem setSb_tickEnable : (setSb s j l).tickEnable = s.tickEnable := rfl
@[simp] theorem setSb_outEnable : (setSb s j l).outEnable = s.outEnable := rfl
@[simp] theorem setSb_oscHeld : (setSb s j l).oscHeld = s.oscHeld := rfl
@[simp] theorem setSb_fb0 : (setSb s j l).fb0 = s.fb0 := rfl
@[simp] theorem setSb_fb1 : (setSb s j l).fb1 = s.fb1 := rfl
@[simp] theorem setSb_fbValid : (setSb s j l).fbValid = s.fbValid := rfl
@[simp] theorem setSb_sb0 : (setSb s j l).sb0 = if j then s.sb0 else l := rfl
@[simp] theorem setSb_sb1 : (setSb s j l).sb1 = if j then l else s.sb1 := rfl
@[simp] theorem setSb_sbValid : (setSb s j l).sbValid = s.sbValid := rfl
@[simp] theorem setSb_oscFreq : (setSb s j l).oscFreq = s.oscFreq := rfl
@[simp] theorem setSb_oscExtRefs : (setSb s j l).oscExtRefs = s.oscExtRefs := rfl
@[simp] theorem setSb_oscPlan : (setSb s j l).oscPlan = s.oscPlan := rfl
@[simp] theorem setSb_out : (setSb s j l).out = s.out := rfl
@[simp] theorem setSb_draws : (setSb s j l).draws = s.draws := rfl
@[simp] theorem setSb_rdata : (setSb s j l).rdata = s.rdata := rfl
@[simp] theorem setSb_uop : (setSb s j l).uop = s.uop := rfl
@[simp] theorem setSb_uopResult : (setSb s j l).uopResult = s.uopResult := rfl
@[simp] theorem setSb_program : (setSb s j l).program = s.program := rfl
@[simp] theorem setSb_prog : (setSb s j l).prog = s.prog := rfl
@[simp] theorem setSb_sched : (setSb s j l).sched = s.sched := rfl

end

/-! ### finish: the end of a command -/

section
variable (s : State) (r : Report)

@[simp] theorem finish_a0 : (finish r s).a0 = s.a0 := rfl
@[simp] theorem finish_a1 : (finish r s).a1 = s.a1 := rfl
@[simp] theorem finish_a2 : (finish r s).a2 = s.a2 := rfl
@[simp] theorem finish_a3 : (finish r s).a3 = s.a3 := rfl
@[simp] theorem finish_a4 : (finish r s).a4 = s.a4 := rfl
@[simp] theorem finish_r0 : (finish r s).r0 = s.r0 := rfl
@[simp] theorem finish_r1 : (finish r s).r1 = s.r1 := rfl
@[simp] theorem finish_r2 : (finish r s).r2 = s.r2 := rfl
@[simp] theorem finish_r3 : (finish r s).r3 = s.r3 := rfl
@[simp] theorem finish_r4 : (finish r s).r4 = s.r4 := rfl
@[simp] theorem finish_fault : (finish r s).fault = s.fault := rfl
@[simp] theorem finish_lastErr : (finish r s).lastErr = reportWord r := rfl
@[simp] theorem finish_phase : (finish r s).phase = s.phase := rfl
@[simp] theorem finish_std : (finish r s).std = s.std := rfl
@[simp] theorem finish_spcc : (finish r s).spcc = s.spcc := rfl
@[simp] theorem finish_profileValid : (finish r s).profileValid = s.profileValid := rfl
@[simp] theorem finish_prof : (finish r s).prof = s.prof := rfl
@[simp] theorem finish_plan : (finish r s).plan = s.plan := rfl
@[simp] theorem finish_lineCounter : (finish r s).lineCounter = s.lineCounter := rfl
@[simp] theorem finish_frameCount : (finish r s).frameCount = s.frameCount := rfl
@[simp] theorem finish_swapCount : (finish r s).swapCount = s.swapCount := rfl
@[simp] theorem finish_ready : (finish r s).ready = s.ready := rfl
@[simp] theorem finish_frontSel : (finish r s).frontSel = s.frontSel := rfl
@[simp] theorem finish_wakePending : (finish r s).wakePending = s.wakePending := rfl
@[simp] theorem finish_prodWaiting : (finish r s).prodWaiting = s.prodWaiting := rfl
@[simp] theorem finish_fillSel : (finish r s).fillSel = s.fillSel := rfl
@[simp] theorem finish_tickEnable : (finish r s).tickEnable = s.tickEnable := rfl
@[simp] theorem finish_outEnable : (finish r s).outEnable = s.outEnable := rfl
@[simp] theorem finish_oscHeld : (finish r s).oscHeld = s.oscHeld := rfl
@[simp] theorem finish_fb0 : (finish r s).fb0 = s.fb0 := rfl
@[simp] theorem finish_fb1 : (finish r s).fb1 = s.fb1 := rfl
@[simp] theorem finish_fbValid : (finish r s).fbValid = s.fbValid := rfl
@[simp] theorem finish_sb0 : (finish r s).sb0 = s.sb0 := rfl
@[simp] theorem finish_sb1 : (finish r s).sb1 = s.sb1 := rfl
@[simp] theorem finish_sbValid : (finish r s).sbValid = s.sbValid := rfl
@[simp] theorem finish_oscFreq : (finish r s).oscFreq = s.oscFreq := rfl
@[simp] theorem finish_oscExtRefs : (finish r s).oscExtRefs = s.oscExtRefs := rfl
@[simp] theorem finish_oscPlan : (finish r s).oscPlan = s.oscPlan := rfl
@[simp] theorem finish_out : (finish r s).out = s.out := rfl
@[simp] theorem finish_draws : (finish r s).draws = s.draws := rfl
@[simp] theorem finish_rdata : (finish r s).rdata = s.rdata := rfl
@[simp] theorem finish_uop : (finish r s).uop = s.uop := rfl
@[simp] theorem finish_uopResult : (finish r s).uopResult = s.uopResult := rfl
@[simp] theorem finish_program : (finish r s).program = s.program := rfl
@[simp] theorem finish_prog : (finish r s).prog = s.prog := rfl
@[simp] theorem finish_sched : (finish r s).sched = s.sched := rfl

end

/-! ### raiseFatal: taking a fatal error -/

section
variable (s : State) (e : FatalError) (op : Byte) (c : BitVec 4)

@[simp] theorem raiseFatal_a0 : (raiseFatal e op c s).a0 = s.a0 := rfl
@[simp] theorem raiseFatal_a1 : (raiseFatal e op c s).a1 = s.a1 := rfl
@[simp] theorem raiseFatal_a2 : (raiseFatal e op c s).a2 = s.a2 := rfl
@[simp] theorem raiseFatal_a3 : (raiseFatal e op c s).a3 = s.a3 := rfl
@[simp] theorem raiseFatal_a4 : (raiseFatal e op c s).a4 = s.a4 := rfl
@[simp] theorem raiseFatal_r0 : (raiseFatal e op c s).r0 = s.r0 := rfl
@[simp] theorem raiseFatal_r1 : (raiseFatal e op c s).r1 = s.r1 := rfl
@[simp] theorem raiseFatal_r2 : (raiseFatal e op c s).r2 = s.r2 := rfl
@[simp] theorem raiseFatal_r3 : (raiseFatal e op c s).r3 = s.r3 := rfl
@[simp] theorem raiseFatal_r4 : (raiseFatal e op c s).r4 = s.r4 := rfl
@[simp] theorem raiseFatal_fault : (raiseFatal e op c s).fault = faultWord e op c := rfl
@[simp] theorem raiseFatal_lastErr : (raiseFatal e op c s).lastErr = s.lastErr := rfl
@[simp] theorem raiseFatal_phase : (raiseFatal e op c s).phase = .halted := rfl
@[simp] theorem raiseFatal_std : (raiseFatal e op c s).std = s.std := rfl
@[simp] theorem raiseFatal_spcc : (raiseFatal e op c s).spcc = s.spcc := rfl
@[simp] theorem raiseFatal_profileValid : (raiseFatal e op c s).profileValid = s.profileValid := rfl
@[simp] theorem raiseFatal_prof : (raiseFatal e op c s).prof = s.prof := rfl
@[simp] theorem raiseFatal_plan : (raiseFatal e op c s).plan = s.plan := rfl
@[simp] theorem raiseFatal_lineCounter : (raiseFatal e op c s).lineCounter = s.lineCounter := rfl
@[simp] theorem raiseFatal_frameCount : (raiseFatal e op c s).frameCount = s.frameCount := rfl
@[simp] theorem raiseFatal_swapCount : (raiseFatal e op c s).swapCount = s.swapCount := rfl
@[simp] theorem raiseFatal_ready : (raiseFatal e op c s).ready = s.ready := rfl
@[simp] theorem raiseFatal_frontSel : (raiseFatal e op c s).frontSel = s.frontSel := rfl
@[simp] theorem raiseFatal_wakePending : (raiseFatal e op c s).wakePending = s.wakePending := rfl
@[simp] theorem raiseFatal_prodWaiting : (raiseFatal e op c s).prodWaiting = s.prodWaiting := rfl
@[simp] theorem raiseFatal_fillSel : (raiseFatal e op c s).fillSel = s.fillSel := rfl
@[simp] theorem raiseFatal_tickEnable : (raiseFatal e op c s).tickEnable = false := rfl
@[simp] theorem raiseFatal_outEnable : (raiseFatal e op c s).outEnable = s.outEnable := rfl
@[simp] theorem raiseFatal_oscHeld : (raiseFatal e op c s).oscHeld = s.oscHeld := rfl
@[simp] theorem raiseFatal_fb0 : (raiseFatal e op c s).fb0 = s.fb0 := rfl
@[simp] theorem raiseFatal_fb1 : (raiseFatal e op c s).fb1 = s.fb1 := rfl
@[simp] theorem raiseFatal_fbValid : (raiseFatal e op c s).fbValid = s.fbValid := rfl
@[simp] theorem raiseFatal_sb0 : (raiseFatal e op c s).sb0 = s.sb0 := rfl
@[simp] theorem raiseFatal_sb1 : (raiseFatal e op c s).sb1 = s.sb1 := rfl
@[simp] theorem raiseFatal_sbValid : (raiseFatal e op c s).sbValid = s.sbValid := rfl
@[simp] theorem raiseFatal_oscFreq : (raiseFatal e op c s).oscFreq = s.oscFreq := rfl
@[simp] theorem raiseFatal_oscExtRefs : (raiseFatal e op c s).oscExtRefs = s.oscExtRefs := rfl
@[simp] theorem raiseFatal_oscPlan : (raiseFatal e op c s).oscPlan = s.oscPlan := rfl
@[simp] theorem raiseFatal_out : (raiseFatal e op c s).out = s.out := rfl
@[simp] theorem raiseFatal_draws : (raiseFatal e op c s).draws = s.draws := rfl
@[simp] theorem raiseFatal_rdata : (raiseFatal e op c s).rdata = s.rdata := rfl
@[simp] theorem raiseFatal_uop : (raiseFatal e op c s).uop = s.uop := rfl
@[simp] theorem raiseFatal_uopResult : (raiseFatal e op c s).uopResult = s.uopResult := rfl
@[simp] theorem raiseFatal_program : (raiseFatal e op c s).program = s.program := rfl
@[simp] theorem raiseFatal_prog : (raiseFatal e op c s).prog = s.prog := rfl
@[simp] theorem raiseFatal_sched : (raiseFatal e op c s).sched = s.sched := rfl

end

/-! ### dropReference: giving up the oscillator reference -/

section
variable (s : State)

@[simp] theorem dropReference_a0 : (dropReference s).a0 = s.a0 := rfl
@[simp] theorem dropReference_a1 : (dropReference s).a1 = s.a1 := rfl
@[simp] theorem dropReference_a2 : (dropReference s).a2 = s.a2 := rfl
@[simp] theorem dropReference_a3 : (dropReference s).a3 = s.a3 := rfl
@[simp] theorem dropReference_a4 : (dropReference s).a4 = s.a4 := rfl
@[simp] theorem dropReference_r0 : (dropReference s).r0 = s.r0 := rfl
@[simp] theorem dropReference_r1 : (dropReference s).r1 = s.r1 := rfl
@[simp] theorem dropReference_r2 : (dropReference s).r2 = s.r2 := rfl
@[simp] theorem dropReference_r3 : (dropReference s).r3 = s.r3 := rfl
@[simp] theorem dropReference_r4 : (dropReference s).r4 = s.r4 := rfl
@[simp] theorem dropReference_fault : (dropReference s).fault = s.fault := rfl
@[simp] theorem dropReference_lastErr : (dropReference s).lastErr = s.lastErr := rfl
@[simp] theorem dropReference_phase : (dropReference s).phase = s.phase := rfl
@[simp] theorem dropReference_std : (dropReference s).std = s.std := rfl
@[simp] theorem dropReference_spcc : (dropReference s).spcc = s.spcc := rfl
@[simp] theorem dropReference_profileValid : (dropReference s).profileValid = s.profileValid := rfl
@[simp] theorem dropReference_prof : (dropReference s).prof = s.prof := rfl
@[simp] theorem dropReference_plan : (dropReference s).plan = s.plan := rfl
@[simp] theorem dropReference_lineCounter : (dropReference s).lineCounter = s.lineCounter := rfl
@[simp] theorem dropReference_frameCount : (dropReference s).frameCount = s.frameCount := rfl
@[simp] theorem dropReference_swapCount : (dropReference s).swapCount = s.swapCount := rfl
@[simp] theorem dropReference_ready : (dropReference s).ready = s.ready := rfl
@[simp] theorem dropReference_frontSel : (dropReference s).frontSel = s.frontSel := rfl
@[simp] theorem dropReference_wakePending : (dropReference s).wakePending = s.wakePending := rfl
@[simp] theorem dropReference_prodWaiting : (dropReference s).prodWaiting = s.prodWaiting := rfl
@[simp] theorem dropReference_fillSel : (dropReference s).fillSel = s.fillSel := rfl
@[simp] theorem dropReference_tickEnable : (dropReference s).tickEnable = s.tickEnable := rfl
@[simp] theorem dropReference_outEnable : (dropReference s).outEnable = s.outEnable := rfl
@[simp] theorem dropReference_oscHeld : (dropReference s).oscHeld = false := rfl
@[simp] theorem dropReference_fb0 : (dropReference s).fb0 = s.fb0 := rfl
@[simp] theorem dropReference_fb1 : (dropReference s).fb1 = s.fb1 := rfl
@[simp] theorem dropReference_fbValid : (dropReference s).fbValid = s.fbValid := rfl
@[simp] theorem dropReference_sb0 : (dropReference s).sb0 = s.sb0 := rfl
@[simp] theorem dropReference_sb1 : (dropReference s).sb1 = s.sb1 := rfl
@[simp] theorem dropReference_sbValid : (dropReference s).sbValid = s.sbValid := rfl
@[simp] theorem dropReference_oscFreq : (dropReference s).oscFreq = if s.oscHeld = true ∧ s.oscExtRefs = 0 then 0 else s.oscFreq := rfl
@[simp] theorem dropReference_oscExtRefs : (dropReference s).oscExtRefs = s.oscExtRefs := rfl
@[simp] theorem dropReference_oscPlan : (dropReference s).oscPlan = s.oscPlan := rfl
@[simp] theorem dropReference_out : (dropReference s).out = s.out := rfl
@[simp] theorem dropReference_draws : (dropReference s).draws = s.draws := rfl
@[simp] theorem dropReference_rdata : (dropReference s).rdata = s.rdata := rfl
@[simp] theorem dropReference_uop : (dropReference s).uop = s.uop := rfl
@[simp] theorem dropReference_uopResult : (dropReference s).uopResult = s.uopResult := rfl
@[simp] theorem dropReference_program : (dropReference s).program = s.program := rfl
@[simp] theorem dropReference_prog : (dropReference s).prog = s.prog := rfl
@[simp] theorem dropReference_sched : (dropReference s).sched = s.sched := rfl

end

/-! ### applyPlan: applying a plan -/

section
variable (s : State)

@[simp] theorem applyPlan_a0 : (applyPlan s).a0 = s.a0 := rfl
@[simp] theorem applyPlan_a1 : (applyPlan s).a1 = s.a1 := rfl
@[simp] theorem applyPlan_a2 : (applyPlan s).a2 = s.a2 := rfl
@[simp] theorem applyPlan_a3 : (applyPlan s).a3 = s.a3 := rfl
@[simp] theorem applyPlan_a4 : (applyPlan s).a4 = s.a4 := rfl
@[simp] theorem applyPlan_r0 : (applyPlan s).r0 = s.r0 := rfl
@[simp] theorem applyPlan_r1 : (applyPlan s).r1 = s.r1 := rfl
@[simp] theorem applyPlan_r2 : (applyPlan s).r2 = s.r2 := rfl
@[simp] theorem applyPlan_r3 : (applyPlan s).r3 = s.r3 := rfl
@[simp] theorem applyPlan_r4 : (applyPlan s).r4 = s.r4 := rfl
@[simp] theorem applyPlan_fault : (applyPlan s).fault = s.fault := rfl
@[simp] theorem applyPlan_lastErr : (applyPlan s).lastErr = s.lastErr := rfl
@[simp] theorem applyPlan_phase : (applyPlan s).phase = s.phase := rfl
@[simp] theorem applyPlan_std : (applyPlan s).std = s.std := rfl
@[simp] theorem applyPlan_spcc : (applyPlan s).spcc = s.spcc := rfl
@[simp] theorem applyPlan_profileValid : (applyPlan s).profileValid = s.profileValid := rfl
@[simp] theorem applyPlan_prof : (applyPlan s).prof = s.prof := rfl
@[simp] theorem applyPlan_plan : (applyPlan s).plan = s.plan := rfl
@[simp] theorem applyPlan_lineCounter : (applyPlan s).lineCounter = s.lineCounter := rfl
@[simp] theorem applyPlan_frameCount : (applyPlan s).frameCount = s.frameCount := rfl
@[simp] theorem applyPlan_swapCount : (applyPlan s).swapCount = s.swapCount := rfl
@[simp] theorem applyPlan_ready : (applyPlan s).ready = s.ready := rfl
@[simp] theorem applyPlan_frontSel : (applyPlan s).frontSel = s.frontSel := rfl
@[simp] theorem applyPlan_wakePending : (applyPlan s).wakePending = s.wakePending := rfl
@[simp] theorem applyPlan_prodWaiting : (applyPlan s).prodWaiting = s.prodWaiting := rfl
@[simp] theorem applyPlan_fillSel : (applyPlan s).fillSel = s.fillSel := rfl
@[simp] theorem applyPlan_tickEnable : (applyPlan s).tickEnable = s.tickEnable := rfl
@[simp] theorem applyPlan_outEnable : (applyPlan s).outEnable = s.outEnable := rfl
@[simp] theorem applyPlan_oscHeld : (applyPlan s).oscHeld = s.oscHeld := rfl
@[simp] theorem applyPlan_fb0 : (applyPlan s).fb0 = s.fb0 := rfl
@[simp] theorem applyPlan_fb1 : (applyPlan s).fb1 = s.fb1 := rfl
@[simp] theorem applyPlan_fbValid : (applyPlan s).fbValid = s.fbValid := rfl
@[simp] theorem applyPlan_sb0 : (applyPlan s).sb0 = s.sb0 := rfl
@[simp] theorem applyPlan_sb1 : (applyPlan s).sb1 = s.sb1 := rfl
@[simp] theorem applyPlan_sbValid : (applyPlan s).sbValid = s.sbValid := rfl
@[simp] theorem applyPlan_oscFreq : (applyPlan s).oscFreq = if oscKept s then s.oscFreq else s.plan.realFreq := rfl
@[simp] theorem applyPlan_oscExtRefs : (applyPlan s).oscExtRefs = s.oscExtRefs := rfl
@[simp] theorem applyPlan_oscPlan : (applyPlan s).oscPlan = if oscKept s then s.oscPlan else ⟨s.plan.d, s.plan.n, s.plan.b, s.plan.a⟩ := rfl
@[simp] theorem applyPlan_out : (applyPlan s).out = s.out := rfl
@[simp] theorem applyPlan_draws : (applyPlan s).draws = s.draws := rfl
@[simp] theorem applyPlan_rdata : (applyPlan s).rdata = s.rdata := rfl
@[simp] theorem applyPlan_uop : (applyPlan s).uop = s.uop := rfl
@[simp] theorem applyPlan_uopResult : (applyPlan s).uopResult = s.uopResult := rfl
@[simp] theorem applyPlan_program : (applyPlan s).program = s.program := rfl
@[simp] theorem applyPlan_prog : (applyPlan s).prog = s.prog := rfl
@[simp] theorem applyPlan_sched : (applyPlan s).sched = s.sched := rfl

end

end Sys2Proof.Machine
end

