-- ==== Sys2Proof/Laws/Clock.lean ====
section
/-!
SUPPORT. The clock synthesizer: what the coarse search answers, that the scan of the fine search keeps the first minimum,
a certificate for that minimum by two neighbouring fractions, and the three plans of R141.
-/

namespace Sys2Proof.Machine

open Sys2Proof

/-! ### Coarse search -/

theorem inBand_iff {t d : Nat} : inBand t d = true ↔ 350000000 ≤ t * (2 * (d + 2)) ∧ t * (2 * (d + 2)) ≤ 500000000 := by
  unfold inBand
  rw [Bool.and_eq_true, decide_eq_true_iff, decide_eq_true_iff]
  rfl

/-- The coarse search finds `d` exactly when `d` is the least divider of the range in the band. -/
theorem coarse_eq_some {t d : Nat} :
    coarse t = some d ↔ t ≠ 0 ∧ d ≤ 31 ∧ inBand t d = true ∧ ∀ d' < d, inBand t d' = false := by
  unfold coarse
  split
  · simp_all
  · rename_i h
    simp only [Config.odivMin, Config.odivMax]
    rw [← List.range_eq_range', List.find?_range_eq_some]
    simp only [h, ne_eq, not_false_eq_true, true_and, List.mem_range, Bool.not_eq_eq_eq_not]
    constructor
    · rintro ⟨h1, h2, h3⟩
      exact ⟨by omega, h1, fun d' hd => by simpa using h3 d' hd⟩
    · rintro ⟨h1, h2, h3⟩
      exact ⟨h2, by omega, fun d' hd => by simpa using h3 d' hd⟩

/-- It fails exactly when no divider of the range is in the band, or the target is 0. -/
theorem coarse_eq_none {t : Nat} : coarse t = none ↔ t = 0 ∨ ∀ d, d ≤ 31 → inBand t d = false := by
  unfold coarse
  split
  · simp_all
  · rename_i h
    simp only [Config.odivMin, Config.odivMax, h, false_or]
    rw [← List.range_eq_range', List.find?_eq_none]
    simp only [List.mem_range, Bool.not_eq_true]
    constructor
    · intro h1 d hd
      exact h1 d (by omega)
    · intro h1 d hd
      exact h1 d (by omega)

/-! ### The scan of the fine search -/

/-- The scan, all it can do: from a best denominator `a` not above the candidates `dmax-k .. dmax-1` it answers the first
of `a` and the candidates with the least error. -/
theorem scanFrom_spec (r t dmax : Nat) {k a : Nat} (ha : a ≤ dmax - k) (hk : k ≤ dmax) :
    (scanFrom r t dmax k a = a ∨ dmax - k ≤ scanFrom r t dmax k a ∧ scanFrom r t dmax k a < dmax) ∧
    fineError r t (scanFrom r t dmax k a) ≤ fineError r t a ∧
    (scanFrom r t dmax k a ≠ a → fineError r t (scanFrom r t dmax k a) < fineError r t a) ∧
    (∀ c, dmax - k ≤ c → c < dmax → fineError r t (scanFrom r t dmax k a) ≤ fineError r t c) ∧
    (∀ c, dmax - k ≤ c → c < scanFrom r t dmax k a →
      fineError r t (scanFrom r t dmax k a) < fineError r t c) := by
  induction k generalizing a with
  | zero =>
    refine ⟨.inl rfl, Nat.le_refl _, fun h => absurd rfl h, fun c h1 h2 => by omega, fun c h1 h2 => ?_⟩
    simp only [scanFrom] at h2
    omega
  | succ k ih =>
    unfold scanFrom
    split
    · rename_i hlt
      obtain ⟨i1, i2, i3, i4, i5⟩ := ih (a := dmax - (k + 1)) (by omega) (by omega)
      refine ⟨.inr ?_, by omega, fun _ => by omega, fun c h1 h2 => ?_, fun c h1 h2 => ?_⟩
      · rcases i1 with h | h
        · omega
        · omega
      · by_cases hc : c = dmax - (k + 1)
        · rwa [hc]
        · exact i4 c (by omega) h2
      · by_cases hc : c = dmax - (k + 1)
        · rw [hc]
          exact i3 (by omega)
        · exact i5 c (by omega) h2
    · rename_i hge
      obtain ⟨i1, i2, i3, i4, i5⟩ := ih (a := a) (by omega) (by omega)
      refine ⟨by omega, i2, i3, fun c h1 h2 => ?_, fun c h1 h2 => ?_⟩
      · by_cases hc : c = dmax - (k + 1)
        · rw [hc]
          omega
        · exact i4 c (by omega) h2
      · by_cases hc : c = dmax - (k + 1)
        · rw [hc]
          have := i3 (by omega)
          omega
        · exact i5 c (by omega) h2

/-- The denominator the scan keeps is the first of `2 .. dmax-1` with the least error. -/
theorem scanDenominator_spec (r t : Nat) {dmax : Nat} (hd : 3 ≤ dmax) :
    2 ≤ scanDenominator r t dmax ∧ scanDenominator r t dmax < dmax ∧
    (∀ c, 2 ≤ c → c < dmax → fineError r t (scanDenominator r t dmax) ≤ fineError r t c) ∧
    (∀ c, 2 ≤ c → c < scanDenominator r t dmax →
      fineError r t (scanDenominator r t dmax) < fineError r t c) := by
  obtain ⟨h1, -, -, h4, h5⟩ := scanFrom_spec r t dmax (k := dmax - 2) (a := 2) (by omega) (by omega)
  simp only [show dmax - (dmax - 2) = 2 by omega] at h1 h4 h5
  unfold scanDenominator
  exact ⟨by omega, by omega, h4, h5⟩

/-- And it is the only such denominator. -/
theorem scanDenominator_unique {r t dmax a : Nat} (h2 : 2 ≤ a) (hd : a < dmax)
    (hle : ∀ c, 2 ≤ c → c < dmax → fineError r t a ≤ fineError r t c)
    (hlt : ∀ c, 2 ≤ c → c < a → fineError r t a < fineError r t c) : scanDenominator r t dmax = a := by
  obtain ⟨g1, g2, g3, g4⟩ := scanDenominator_spec r t (dmax := dmax) (by omega)
  rcases Nat.lt_trichotomy (scanDenominator r t dmax) a with h | h | h
  · have := hlt _ g1 h
    have := g3 a h2 hd
    omega
  · exact h
  · have := g4 a h2 h
    have := hle _ g1 g2
    omega

/-! ### The nearest numerator -/

/-- Twice the nearest numerator times `t` lies within `t` of twice `r·c`, and a half rounds up. -/
theorem nearestNumerator_bounds (r c : Nat) {t : Nat} (ht : 0 < t) :
    2 * (t * nearestNumerator r t c) ≤ 2 * (r * c) + t ∧ 2 * (r * c) < 2 * (t * nearestNumerator r t c) + t := by
  have h1 := Nat.div_add_mod (2 * r * c + t) (2 * t)
  have h2 := Nat.mod_lt (2 * r * c + t) (show 0 < 2 * t by omega)
  have e1 : 2 * t * nearestNumerator r t c = 2 * (t * nearestNumerator r t c) := by ring
  have e2 : 2 * r * c = 2 * (r * c) := by ring
  unfold nearestNumerator at e1 ⊢
  rw [e1] at h1
  omega

/-- The nearest numerator minimises the error over all numerators. -/
theorem fineError_le (r c b : Nat) {t : Nat} (ht : 0 < t) : fineError r t c ≤ absDiff (t * b) (r * c) := by
  obtain ⟨h1, h2⟩ := nearestNumerator_bounds r c ht
  unfold fineError absDiff
  rcases Nat.lt_trichotomy b (nearestNumerator r t c) with h | h | h
  · have := Nat.mul_le_mul_left t (show b + 1 ≤ nearestNumerator r t c from h)
    rw [Nat.mul_add] at this
    omega
  · rw [h]
  · have := Nat.mul_le_mul_left t (show nearestNumerator r t c + 1 ≤ b from h)
    rw [Nat.mul_add] at this
    omega

/-! ### A certificate for the scan -/

theorem absDiff_cast (x y : Nat) : (absDiff x y : Int) = |(x : Int) - y| := by
  unfold absDiff
  rcases Nat.le_total x y with h | h
  · rw [abs_of_nonpos (by omega)]
    omega
  · rw [abs_of_nonneg (by omega)]
    omega

/-- With neighbouring fractions `p/q`, `p'/q'` of signed errors `m`, `m'` of opposite sign (or `p'/q'` exact and `q'` at
least `2q`), a denominator below `q'` has at least the error of `q`, and strictly more below `q`. -/
theorem error_of_neighbours {r t p q p' q' m m' b c : Int} (hq : 0 < q) (hc : 0 < c) (hcq : c < q')
    (e : t * p - r * q = m) (e' : t * p' - r * q' = m') (hdet : p * q' - p' * q = 1 ∨ p * q' - p' * q = -1)
    (hsign : (0 ≤ m ∧ m' < 0 ∨ m ≤ 0 ∧ 0 < m') ∨ m ≠ 0 ∧ m' = 0 ∧ 2 * q ≤ q') :
    (q ≤ c ∧ |m| ≤ |t * b - r * c|) ∨ |m| < |t * b - r * c| := by
  obtain ⟨u, v, hu, hv⟩ : ∃ u v : Int, c = u * q + v * q' ∧ b = u * p + v * p' := by
    rcases hdet with hd | hd
    · exact ⟨b * q' - c * p', c * p - b * q, by linear_combination (-c) * hd, by linear_combination (-b) * hd⟩
    · exact ⟨-(b * q' - c * p'), -(c * p - b * q), by linear_combination c * hd, by linear_combination b * hd⟩
  have hE : t * b - r * c = u * m + v * m' := by
    subst hu hv e e'
    ring
  rw [hE]
  rcases lt_trichotomy v 0 with hv0 | hv0 | hv0
  · have hu0 : 0 < u := by
      by_contra hcon
      nlinarith
    right
    rcases hsign with (⟨hm, hm'⟩ | ⟨hm, hm'⟩) | ⟨hm, rfl, hqq⟩
    · have : 0 < v * m' := mul_pos_of_neg_of_neg hv0 hm'
      rw [abs_of_nonneg hm, abs_of_pos (by nlinarith)]
      nlinarith
    · have : v * m' < 0 := mul_neg_of_neg_of_pos hv0 hm'
      rw [abs_of_nonpos hm, abs_of_neg (by nlinarith)]
      nlinarith
    · have hu2 : 2 ≤ u := by
        by_contra hcon
        have : u = 1 := by omega
        subst this
        nlinarith
      rw [mul_zero, add_zero, abs_mul, abs_of_pos hu0]
      nlinarith [abs_pos.2 hm]
  · subst hv0
    have hu0 : 0 < u := by
      by_contra hcon
      nlinarith
    left
    refine ⟨by nlinarith, ?_⟩
    rw [zero_mul, add_zero, abs_mul, abs_of_pos hu0]
    nlinarith [abs_nonneg m]
  · have hu0 : u < 0 := by
      by_contra hcon
      nlinarith
    rcases hsign with (⟨hm, hm'⟩ | ⟨hm, hm'⟩) | ⟨hm, rfl, hqq⟩
    · right
      have : v * m' < 0 := mul_neg_of_pos_of_neg hv0 hm'
      rw [abs_of_nonneg hm, abs_of_neg (by nlinarith)]
      nlinarith
    · right
      have : 0 < v * m' := mul_pos hv0 hm'
      rw [abs_of_nonpos hm, abs_of_pos (by nlinarith)]
      nlinarith
    · rw [mul_zero, add_zero, abs_mul, abs_of_neg hu0]
      by_cases hu1 : u = -1
      · left
        subst hu1
        exact ⟨by nlinarith, by simp⟩
      · right
        nlinarith [abs_pos.2 hm, show u ≤ -2 by omega]

/-- Two neighbouring fractions `p/q` and `p'/q'` on the two sides of `r/t` settle the scan over the denominators up to
`q'`: it keeps `q`. The signed errors are `t·p - r·q = m` and `t·p' - r·q' = m'`. -/
theorem scanDenominator_of_neighbours {r t dmax p q p' q' : Nat} (m m' : Int) (ht : 0 < t) (hq : 2 ≤ q)
    (hqd : q < dmax) (hdq : dmax ≤ q') (e : (t : Int) * p - r * q = m) (e' : (t : Int) * p' - r * q' = m')
    (hdet : (p : Int) * q' - p' * q = 1 ∨ (p : Int) * q' - p' * q = -1)
    (hsign : (0 ≤ m ∧ m' < 0 ∨ m ≤ 0 ∧ 0 < m') ∨ m ≠ 0 ∧ m' = 0 ∧ 2 * q ≤ q') : scanDenominator r t dmax = q := by
  have hbase : (fineError r t q : Int) ≤ |m| := by
    have h := fineError_le r q p ht
    have hc := absDiff_cast (t * p) (r * q)
    push_cast at hc
    rw [e] at hc
    omega
  have key : ∀ c, 2 ≤ c → c < dmax → (q ≤ c ∧ fineError r t q ≤ fineError r t c) ∨ fineError r t q < fineError r t c := by
    intro c h2 hd
    have hc := absDiff_cast (t * nearestNumerator r t c) (r * c)
    push_cast at hc
    have h := error_of_neighbours (b := (nearestNumerator r t c : Int)) (c := (c : Int)) (by omega) (by omega)
      (show (c : Int) < q' by omega) e e' hdet (by omega)
    rw [← hc] at h
    change _ ∨ _
    have hf : (fineError r t c : Int) = (absDiff (t * nearestNumerator r t c) (r * c) : Nat) := rfl
    omega
  refine scanDenominator_unique hq hqd (fun c h2 hd => ?_) (fun c h2 hcq => ?_)
  · rcases key c h2 hd with h | h <;> omega
  · rcases key c h2 (by omega) with h | h <;> omega

/-! ### The three plans -/

theorem scan_ntsc3 : scanDenominator 5113624 40000000 65536 = 36788 :=
  scanDenominator_of_neighbours (p := 4703) (p' := 12922) (q' := 101079) 288 (-296) (by decide) (by decide) (by decide)
    (by decide) (by decide) (by decide) (by decide) (by decide)

theorem scan_ntsc4 : scanDenominator 12272732 40000000 65536 = 88 :=
  scanDenominator_of_neighbours (p := 27) (p' := 20119) (q' := 65573) (-416) 144564 (by decide) (by decide) (by decide)
    (by decide) (by decide) (by decide) (by decide) (by decide)

theorem scan_pal4 : scanDenominator 34689500 40000000 65536 = 34219 :=
  scanDenominator_of_neighbours (p := 29676) (p' := 69379) (q' := 80000) (-500) 0 (by decide) (by decide) (by decide)
    (by decide) (by decide) (by decide) (by decide) (by decide)

/-- The fine search when there is no carry, its quotient and remainder known and its scan settled. -/
theorem fine_of_scan {src t dmax min max n r a : Nat} (h0 : ¬ (t = 0 ∨ dmax < 3)) (hn : src / t = n) (hr : src % t = r)
    (hc : carries r t dmax = false) (hs : scanDenominator r t dmax = a) :
    fine src t dmax min max = fineFinish src n (nearestNumerator r t a) a min max := by
  rw [fine, if_neg h0, hr, hc, hs, hn]
  simp

/-- The plan for the NTSC3 target (R141). -/
theorem synthPlan_ntsc3 :
    synthPlan 10738636 = ⟨true, 10738636, 15, 9, 4703, 36788, 10738636⟩ := by
  have hc : coarse 10738636 = some 15 := by decide
  have hf : fine (10738636 * ratioK 15) Config.fRef Config.fracD Config.mulMin Config.mulMax =
      ⟨39999999, 9, 4703, 36788⟩ :=
    (fine_of_scan (n := 9) (a := 36788) (by decide) (by decide) (by decide) (by decide) scan_ntsc3).trans (by decide)
  simp only [synthPlan, hc, hf]
  rfl

/-- The plan for the NTSC4 target (R141). -/
theorem synthPlan_ntsc4 :
    synthPlan 14318182 = ⟨true, 14318182, 11, 9, 27, 88, 14318181⟩ := by
  have hc : coarse 14318182 = some 11 := by decide
  have hf : fine (14318182 * ratioK 11) Config.fRef Config.fracD Config.mulMin Config.mulMax =
      ⟨40000000, 9, 27, 88⟩ :=
    (fine_of_scan (n := 9) (a := 88) (by decide) (by decide) (by decide) (by decide) scan_ntsc4).trans (by decide)
  simp only [synthPlan, hc, hf]
  rfl

/-- The plan for the PAL4 target (R141). -/
theorem synthPlan_pal4 :
    synthPlan 17734475 = ⟨true, 17734475, 8, 8, 29676, 34219, 17734474⟩ := by
  have hc : coarse 17734475 = some 8 := by decide
  have hf : fine (17734475 * ratioK 8) Config.fRef Config.fracD Config.mulMin Config.mulMax =
      ⟨40000000, 8, 29676, 34219⟩ :=
    (fine_of_scan (n := 8) (a := 34219) (by decide) (by decide) (by decide) (by decide) scan_pal4).trans (by decide)
  simp only [synthPlan, hc, hf]
  rfl

/-- Every mode's plan is valid, and its frequency is not 0. -/
theorem synthPlan_valid (m : Mode) : (synthPlan (targetHz m)).valid = true ∧ (synthPlan (targetHz m)).realFreq ≠ 0 := by
  cases m <;> simp only [targetHz, synthPlan_ntsc3, synthPlan_ntsc4, synthPlan_pal4] <;> decide

end Sys2Proof.Machine
end

