-- ==== Sys2Proof/Laws/Decode.lean ====
section
/-!
SUPPORT. The fields of an encoded command word, read back.
-/

namespace Sys2Proof

@[simp] theorem opField_wordZ (op : Byte) : opField (wordZ op) = op := by
  unfold opField wordZ
  ext i hi
  simp only [BitVec.getElem_extractLsb', BitVec.getLsbD_append]
  rw [if_neg (by omega), Nat.add_sub_cancel_left, BitVec.getLsbD_eq_getElem hi]

@[simp] theorem immField_wordZ (op : Byte) : immField (wordZ op) = 0#24 := by
  unfold immField wordZ
  ext i hi
  simp only [BitVec.getElem_extractLsb', BitVec.getLsbD_append]
  rw [if_pos (by omega)]
  simp

/-- A word is its `OP` above its `IMM` (R100). -/
theorem op_append_imm (w : Word) : opField w ++ immField w = w := by
  unfold opField immField
  ext i hi
  rw [BitVec.getElem_append]
  split
  · simp [BitVec.getLsbD_eq_getElem hi]
  · simp only [BitVec.getElem_extractLsb']
    rw [show 24 + (i - 24) = i by omega, BitVec.getLsbD_eq_getElem hi]

/-- An `INIT` word is its four bytes (R102). -/
theorem init_append (w : Word) : opField w ++ initReservedField w ++ spccField w ++ stdField w = w := by
  unfold opField initReservedField spccField stdField
  ext i hi
  simp only [BitVec.getElem_append, BitVec.getElem_extractLsb']
  repeat' split
  all_goals first
    | rw [show 0 + i = i by omega, BitVec.getLsbD_eq_getElem hi]
    | rw [show 8 + (i - 8) = i by omega, BitVec.getLsbD_eq_getElem hi]
    | rw [show 16 + (i - 8 - 8) = i by omega, BitVec.getLsbD_eq_getElem hi]
    | rw [show 24 + (i - 8 - 8 - 8) = i by omega, BitVec.getLsbD_eq_getElem hi]

/-- An `FBWR` word is its opcode, row and column (R103). -/
theorem fbwr_append (w : Word) : opField w ++ rowField w ++ colField w = w := by
  unfold opField rowField colField
  ext i hi
  simp only [BitVec.getElem_append, BitVec.getElem_extractLsb']
  repeat' split
  all_goals first
    | rw [show 0 + i = i by omega, BitVec.getLsbD_eq_getElem hi]
    | rw [show 12 + (i - 12) = i by omega, BitVec.getLsbD_eq_getElem hi]
    | rw [show 24 + (i - 12 - 12) = i by omega, BitVec.getLsbD_eq_getElem hi]

/-- The fields of a format `I` word (R102). -/
theorem fields_wordI (std spcc : Nat) :
    opField (wordI std spcc) = 0x01#8 ∧ initReservedField (wordI std spcc) = 0#8 ∧
      spccField (wordI std spcc) = BitVec.ofNat 8 spcc ∧ stdField (wordI std spcc) = BitVec.ofNat 8 std := by
  unfold opField initReservedField spccField stdField wordI
  refine ⟨?_, ?_, ?_, ?_⟩ <;> ext i hi <;>
    simp only [BitVec.getElem_extractLsb', BitVec.getLsbD_append]
  · rw [if_neg (by omega), if_neg (by omega), if_neg (by omega), show 24 + i - 8 - 8 - 8 = i by omega,
      BitVec.getLsbD_eq_getElem hi]
  · rw [if_neg (by omega), if_neg (by omega), if_pos (by omega), show 16 + i - 8 - 8 = i by omega,
      BitVec.getLsbD_eq_getElem hi]
  · rw [if_neg (by omega), if_pos (by omega), show 8 + i - 8 = i by omega, BitVec.getLsbD_eq_getElem hi]
  · rw [if_pos (by omega), show 0 + i = i by omega, BitVec.getLsbD_eq_getElem hi]

/-- The fields of a format `P` word (R103). -/
theorem fields_wordP (row col : Nat) :
    opField (wordP row col) = 0x11#8 ∧ rowField (wordP row col) = BitVec.ofNat 12 row ∧
      colField (wordP row col) = BitVec.ofNat 12 col := by
  unfold opField rowField colField wordP
  refine ⟨?_, ?_, ?_⟩ <;> ext i hi <;>
    simp only [BitVec.getElem_extractLsb', BitVec.getLsbD_append]
  · rw [if_neg (by omega), if_neg (by omega), show 24 + i - 12 - 12 = i by omega, BitVec.getLsbD_eq_getElem hi]
  · rw [if_neg (by omega), if_pos (by omega), show 12 + i - 12 = i by omega, BitVec.getLsbD_eq_getElem hi]
  · rw [if_pos (by omega), show 0 + i = i by omega, BitVec.getLsbD_eq_getElem hi]

end Sys2Proof
end

