-- ==== Sys2Proof/Laws/Memory.lean ====
section
/-!
SUPPORT. The frame-buffer memory: read after write, the canonical form is kept, and what `setFb` does to each buffer.
-/

namespace Sys2Proof.Machine

open Sys2Proof

@[simp] theorem memRead_nil (i : Nat) : memRead [] i = none := rfl

theorem memRead_memWrite_same (m : Memory) (i : Nat) (v : Byte) : memRead (memWrite m i v) i = some v := by
  induction m with
  | nil => simp [memWrite, memRead]
  | cons c m ih =>
    obtain ⟨k, x⟩ := c
    simp only [memWrite]
    split
    · simp [memRead]
    · split
      · simp [memRead]
      · rename_i h1 h2
        simp [memRead, ih, h1, Ne.symm h2]

theorem memRead_memWrite_other (m : Memory) {i i' : Nat} (v : Byte) (h : i' ≠ i) :
    memRead (memWrite m i v) i' = memRead m i' := by
  induction m with
  | nil => simp [memWrite, memRead, unlistedElement, Ne.symm h]
  | cons c m ih =>
    obtain ⟨k, x⟩ := c
    simp only [memWrite]
    split
    · rename_i h1
      simp only [memRead, if_neg (Ne.symm h)]
      split
      · rename_i h2
        rw [if_neg (by omega), if_pos (by omega)]
      · rfl
    · split
      · rename_i h1 h2
        subst h2
        simp [memRead, Ne.symm h]
      · simp [memRead, ih]

/-- The index of the first listed element, if any, is above `k`. -/
theorem memWf_cons {k : Nat} {v : Byte} {m : Memory} :
    memWf ((k, v) :: m) = true ↔ (∀ c, m.head? = some c → k < c.1) ∧ memWf m = true := by
  cases m with
  | nil => simp [memWf]
  | cons c m => simp [memWf]

theorem memWf_memWrite {m : Memory} (i : Nat) (v : Byte) (h : memWf m = true) : memWf (memWrite m i v) = true := by
  induction m with
  | nil => rfl
  | cons c m ih =>
    obtain ⟨k, x⟩ := c
    obtain ⟨h1, h2⟩ := memWf_cons.1 h
    simp only [memWrite]
    split
    · exact memWf_cons.2 ⟨by simpa, h⟩
    · split
      · rename_i h3
        subst h3
        exact memWf_cons.2 ⟨h1, h2⟩
      · refine memWf_cons.2 ⟨?_, ih h2⟩
        intro c hc
        cases m with
        | nil => simp [memWrite] at hc; subst hc; simp; omega
        | cons d m =>
          have hd := h1 d rfl
          simp only [memWrite] at hc
          split at hc
          · simp at hc; subst hc; simp; omega
          · split at hc
            · simp at hc; subst hc; simp; omega
            · simp at hc; subst hc; exact hd

theorem mem_memWrite {m : Memory} {i : Nat} {v : Byte} {c : Host.Cell} (h : c ∈ memWrite m i v) :
    c = (i, v) ∨ c ∈ m := by
  induction m with
  | nil => simp [memWrite] at h; exact .inl h
  | cons d m ih =>
    obtain ⟨k, x⟩ := d
    simp only [memWrite] at h
    split at h
    · simpa using h
    · split at h
      · simp only [List.mem_cons] at h ⊢; tauto
      · simp only [List.mem_cons] at h ⊢
        rcases h with h | h
        · exact .inr (.inl h)
        · rcases ih h with h | h
          · exact .inl h
          · exact .inr (.inr h)

theorem memInRange_nil (rows : Nat) : memInRange [] rows := by simp [memInRange]

theorem memInRange_memWrite {m : Memory} {rows row col : Nat} (v : Byte) (h : memInRange m rows) (hr : row < rows)
    (hc : col < Config.fbWidth) : memInRange (memWrite m (fbIndex row col) v) rows := by
  intro c hm
  rcases mem_memWrite hm with rfl | hm
  · simp only [fbIndex, Config.fbWidth] at *
    omega
  · exact h c hm

/-- Distinct elements have distinct indices. -/
theorem fbIndex_inj {row col row' col' : Nat} (hc : col < Config.fbWidth) (hc' : col' < Config.fbWidth)
    (h : fbIndex row col = fbIndex row' col') : row = row' ∧ col = col' := by
  simp only [fbIndex, Config.fbWidth] at *
  omega

@[simp] theorem fbOf_setFb_same (s : State) (h : Bool) (m : Memory) : fbOf (setFb s h m) h = m := by
  cases h <;> rfl

@[simp] theorem fbOf_setFb_other (s : State) (h : Bool) (m : Memory) : fbOf (setFb s h m) (!h) = fbOf s (!h) := by
  cases h <;> rfl

theorem fbOf_setFb (s : State) (h h' : Bool) (m : Memory) :
    fbOf (setFb s h m) h' = if h' = h then m else fbOf s h' := by
  cases h <;> cases h' <;> rfl

/-- A store to one element: that element reads as the value stored, every other as before. -/
theorem fbRead_store (s : State) {h : Bool} {row col : Nat} (v : Byte) (hc : col < Config.fbWidth) (h' : Bool)
    {row' col' : Nat} (hc' : col' < Config.fbWidth) :
    fbRead (setFb s h (memWrite (fbOf s h) (fbIndex row col) v)) h' row' col' =
      if h' = h ∧ row' = row ∧ col' = col then some v else fbRead s h' row' col' := by
  unfold fbRead
  rw [fbOf_setFb]
  by_cases hh : h' = h
  · subst hh
    by_cases he : row' = row ∧ col' = col
    · obtain ⟨rfl, rfl⟩ := he
      simp [memRead_memWrite_same]
    · have hne : fbIndex row' col' ≠ fbIndex row col := fun e => he (fbIndex_inj hc' hc e)
      simp [he, memRead_memWrite_other _ v hne]
  · simp [hh]

end Sys2Proof.Machine
end

