-- ==== Sys2Proof/Laws/Samples.lean ====
section
/-!
SUPPORT. Sequencing, and the sample buffers: what one ranged write leaves at each position, and what a sequence of them
makes of a line.
-/

namespace Sys2Proof.Machine

open Sys2Proof

/-! ### Sequencing -/

@[simp] theorem andThen_next (s : State) (k : State → Result) : andThen (.next s) k = k s := rfl

@[simp] theorem andThen_fault (f : Fault) (k : State → Result) : andThen (.fault f) k = .fault f := rfl

@[simp] theorem andThen_refused (r : Refusal) (k : State → Result) : andThen (.refused r) k = .refused r := rfl

/-- A sequence answers a next state exactly when its first part does and its second then does. -/
theorem andThen_eq_next {o : Result} {k : State → Result} {t : State} :
    andThen o k = .next t ↔ ∃ s, o = .next s ∧ k s = .next t := by
  cases o <;> simp [andThen]

/-! ### One ranged write on a line -/

@[simp] theorem writeFrom_length (i lo hi : Nat) (f : Nat → Option Sample) (l : Line) :
    (writeFrom i lo hi f l).length = l.length := by
  induction l generalizing i with
  | nil => rfl
  | cons x xs ih => simp [writeFrom, ih]

theorem writeFrom_getElem? (i lo hi : Nat) (f : Nat → Option Sample) (l : Line) (p : Nat) :
    (writeFrom i lo hi f l)[p]? = (l[p]?).map fun x => if lo ≤ i + p ∧ i + p < hi then f (i + p) else x := by
  induction l generalizing i p with
  | nil => simp [writeFrom]
  | cons x xs ih =>
    cases p with
    | zero => simp [writeFrom]
    | succ p => simp [writeFrom, ih, Nat.add_comm, Nat.add_left_comm]

/-- What a ranged write leaves at position `p` of a line of known length. -/
theorem write_getElem? {lo hi : Nat} {f : Nat → Option Sample} {l : Line} {p : Nat} (hp : p < l.length) :
    (writeFrom 0 lo hi f l)[p]? = some (if lo ≤ p ∧ p < hi then f p else l[p]) := by
  rw [writeFrom_getElem?]
  simp [hp]

/-- An empty range writes nothing. -/
theorem writeFrom_empty (i lo hi : Nat) (f : Nat → Option Sample) (l : Line) (h : hi ≤ lo) :
    writeFrom i lo hi f l = l := by
  induction l generalizing i with
  | nil => rfl
  | cons x xs ih =>
    rw [writeFrom, ih, if_neg (by omega)]

/-! ### The two buffers -/

@[simp] theorem sbOf_setSb_same (s : State) (j : Bool) (l : Line) : sbOf (setSb s j l) j = l := by
  cases j <;> rfl

@[simp] theorem sbOf_setSb_other (s : State) (j : Bool) (l : Line) : sbOf (setSb s j l) (!j) = sbOf s (!j) := by
  cases j <;> rfl

@[simp] theorem setSb_setSb (s : State) (j : Bool) (l l' : Line) : setSb (setSb s j l) j l' = setSb s j l' := by
  cases j <;> rfl

@[simp] theorem setSb_self (s : State) (j : Bool) : setSb s j (sbOf s j) = s := by
  cases j <;> rfl

@[simp] theorem fbOf_setSb (s : State) (j : Bool) (l : Line) (h : Bool) : fbOf (setSb s j l) h = fbOf s h := rfl

@[simp] theorem stateMode_setSb (s : State) (j : Bool) (l : Line) : stateMode (setSb s j l) = stateMode s := rfl

@[simp] theorem fbRowExists_setSb (s : State) (j : Bool) (l : Line) (r : Nat) :
    fbRowExists (setSb s j l) r = fbRowExists s r := rfl

@[simp] theorem lineWidth_setSb (s : State) (j : Bool) (l : Line) : lineWidth (setSb s j l) = lineWidth s := rfl

theorem sbRangeExists_iff {s : State} {j : Bool} {lo hi : Nat} :
    sbRangeExists s j lo hi = true ↔ hi ≤ lo ∨ (s.sbValid = true ∧ hi ≤ (sbOf s j).length) := by
  simp [sbRangeExists]

/-- A ranged write, all it can do: it replaces `SB[j]` by the written line, or faults where a position does not exist. -/
theorem writeSamples_cases (j : Bool) (lo hi : Nat) (f : Nat → Option Sample) (s : State) :
    (sbRangeExists s j lo hi = true ∧
      writeSamples j lo hi f s = .next (setSb s j (writeFrom 0 lo hi f (sbOf s j)))) ∨
    (sbRangeExists s j lo hi = false ∧ writeSamples j lo hi f s = .fault .noSampleBuffer) := by
  unfold writeSamples
  cases h : sbRangeExists s j lo hi <;> simp

/-- A ranged write inside an existing buffer completes. -/
theorem writeSamples_next {j : Bool} {lo hi : Nat} (f : Nat → Option Sample) {s : State} (hv : s.sbValid = true)
    (h : hi ≤ (sbOf s j).length) :
    writeSamples j lo hi f s = .next (setSb s j (writeFrom 0 lo hi f (sbOf s j))) := by
  have : sbRangeExists s j lo hi = true := sbRangeExists_iff.2 (.inr ⟨hv, h⟩)
  simp [writeSamples, this]

/-- A ranged write on a buffer that is being built, line `l`. -/
theorem writeSamples_setSb {j : Bool} {lo hi : Nat} (f : Nat → Option Sample) {s : State} {l : Line}
    (hv : s.sbValid = true) (h : hi ≤ l.length) :
    writeSamples j lo hi f (setSb s j l) = .next (setSb s j (writeFrom 0 lo hi f l)) := by
  rw [writeSamples_next f (by simpa using hv) (by simpa using h)]
  simp

/-- A FILL on a buffer that is being built. -/
theorem fill_setSb {j : Bool} {lo hi : Nat} {v : Byte} {s : State} {l : Line} (hv : s.sbValid = true)
    (h : hi ≤ l.length) :
    fill j lo hi v (setSb s j l) = .next (setSb s j (writeFrom 0 lo hi (fun _ => some (levelWord v)) l)) :=
  writeSamples_setSb _ hv h

/-- The frame of every ranged write that answers a next state: only `SB[j]` differs, and its length does not. -/
theorem writeSamples_frame {j : Bool} {lo hi : Nat} {f : Nat → Option Sample} {s t : State}
    (h : writeSamples j lo hi f s = .next t) : ∃ l, t = setSb s j l ∧ l.length = (sbOf s j).length := by
  rcases writeSamples_cases j lo hi f s with ⟨-, h'⟩ | ⟨-, h'⟩
  · rw [h'] at h
    cases h
    exact ⟨_, rfl, by simp⟩
  · rw [h'] at h
    cases h

/-! ### Building a line by a sequence of ranged writes -/

/-- `o` answers `s` with `SB[j]` holding `g p` at each position `p` of a line of `w` samples, and nothing else changed. -/
def LineIs (s : State) (j : Bool) (w : Nat) (g : Nat → Option Sample) (o : Result) : Prop :=
  ∃ l : Line, o = .next (setSb s j l) ∧ l.length = w ∧ ∀ p, p < w → l[p]? = some (g p)

/-- The buffer as it stands. -/
theorem LineIs.start {s : State} {j : Bool} {w : Nat} (hl : (sbOf s j).length = w) :
    LineIs s j w (fun p => ((sbOf s j)[p]?).getD none) (.next s) := by
  refine ⟨sbOf s j, by simp, hl, fun p hp => ?_⟩
  simp [List.getElem?_eq_getElem (show p < (sbOf s j).length by omega)]

/-- One more ranged write. -/
theorem LineIs.write {s : State} {j : Bool} {w lo hi : Nat} {g f : Nat → Option Sample} {o : Result}
    {k : State → Result} (h : LineIs s j w g o) (hv : s.sbValid = true) (hi_le : hi ≤ w)
    (hk : ∀ l, k (setSb s j l) = writeSamples j lo hi f (setSb s j l)) :
    LineIs s j w (fun p => if lo ≤ p ∧ p < hi then f p else g p) (andThen o k) := by
  obtain ⟨l, rfl, hl, hg⟩ := h
  refine ⟨writeFrom 0 lo hi f l, ?_, by simp [hl], fun p hp => ?_⟩
  · rw [andThen_next, hk, writeSamples_setSb f hv (by omega)]
  · have hg' := hg p hp
    rw [List.getElem?_eq_getElem (by omega), Option.some.injEq] at hg'
    rw [write_getElem? (by omega), hg']

/-- A write of no sample. -/
theorem LineIs.skip {s : State} {j : Bool} {w : Nat} {g : Nat → Option Sample} {o : Result} {k : State → Result}
    (h : LineIs s j w g o) (hk : ∀ l, k (setSb s j l) = .next (setSb s j l)) : LineIs s j w g (andThen o k) := by
  obtain ⟨l, rfl, hl, hg⟩ := h
  exact ⟨l, by rw [andThen_next, hk], hl, hg⟩

/-- The same content said otherwise. -/
theorem LineIs.congr {s : State} {j : Bool} {w : Nat} {g g' : Nat → Option Sample} {o : Result} (h : LineIs s j w g o)
    (he : ∀ p, p < w → g p = g' p) : LineIs s j w g' o := by
  obtain ⟨l, rfl, hl, hg⟩ := h
  exact ⟨l, rfl, hl, fun p hp => by rw [hg p hp, he p hp]⟩

/-- Sequencing is associative. -/
theorem andThen_assoc (o : Result) (k k' : State → Result) :
    andThen (andThen o k) k' = andThen o fun s => andThen (k s) k' := by
  cases o <;> rfl

end Sys2Proof.Machine
end

