-- ==== Sys2Proof/Laws/Lines.lean ====
section
/-!
SUPPORT. The pixel encoders, the line operations and TICK: when each completes, what it leaves in the buffer it fills,
and its frame.
-/

namespace Sys2Proof.Machine

open Sys2Proof

/-! ### The encoders -/

/-- An encoder inside existing buffers completes with one ranged write (R163). -/
theorem encodeRow_next {h : Bool} {row : Nat} {j : Bool} {o : Nat} {v : Bool} {spp spcc : Nat} {s : State}
    (hr : fbRowExists s row = true) (hv : s.sbValid = true) (hl : o + Config.fbWidth * spp ≤ (sbOf s j).length) :
    encodeRow h row j o v spp spcc s =
      .next (setSb s j (writeFrom 0 o (o + Config.fbWidth * spp)
        (fun p => encodedSample (Config.palRom v) (fbOf s h) row spp spcc (p - o)) (sbOf s j))) := by
  rw [encodeRow, if_pos hr, writeSamples_next _ hv hl]

/-- The frame of an encoder. -/
theorem encodeRow_frame {h : Bool} {row : Nat} {j : Bool} {o : Nat} {v : Bool} {spp spcc : Nat} {s t : State}
    (ht : encodeRow h row j o v spp spcc s = .next t) :
    ∃ l, t = setSb s j l ∧ l.length = (sbOf s j).length := by
  unfold encodeRow at ht
  split at ht
  · exact writeSamples_frame ht
  · cases ht

/-- Samples per pixel of a mode, as its encoder takes them (R164 to R166). -/
def sppOf : Mode → Nat
  | .ntsc3 => 2
  | .ntsc4 => 3
  | .pal4 => 3

/-- Samples per color clock of a mode. -/
def spccOf : Mode → Nat
  | .ntsc3 => 3
  | .ntsc4 => 4
  | .pal4 => 4

/-- The palette variant a mode's encoder reads on a line of that parity (R164 to R166). -/
def variantOf : Mode → Bool → Bool
  | .ntsc3, _ => false
  | .ntsc4, _ => false
  | .pal4, parity => parity

/-- The picture of an active line is one call of the shared encoder. -/
theorem encodePicture_eq {m : Mode} {s : State} (hm : stateMode s = some m) (row : Nat) (j parity : Bool) :
    encodePicture row j parity s =
      encodeRow s.frontSel row j s.prof.activeStart.toNat (variantOf m parity) (sppOf m) (spccOf m) s := by
  cases m <;> simp [encodePicture, hm, encN3, encN4, encP4, sppOf, spccOf, variantOf]

/-! ### The line operations -/

/-- What R188 puts at position `p`. -/
def blankContent (s : State) (p : Nat) : Option Sample :=
  some (levelWord (if p < s.prof.hsync.toNat then Config.syncLevel else Config.blankLevel))

/-- LINE.BLANK completes on an existing buffer (R188). -/
theorem lineBlank_spec {j : Bool} {s : State} (hv : s.sbValid = true) (hl : (sbOf s j).length = lineWidth s)
    (hs : s.prof.hsync.toNat ≤ lineWidth s) : LineIs s j (lineWidth s) (blankContent s) (lineBlank j s) := by
  have h := (((LineIs.start hl).write hv hs (fun _ => rfl) (k := fill j 0 s.prof.hsync.toNat Config.syncLevel)).write
    hv (Nat.le_refl _) (fun _ => rfl) (k := fill j s.prof.hsync.toNat (lineWidth s) Config.blankLevel))
  refine LineIs.congr h fun p hp => ?_
  simp only [blankContent]
  split_ifs <;> first | rfl | omega

/-- What R189 puts at position `p`. -/
def vsyncContent (s : State) (p : Nat) : Option Sample :=
  some (levelWord (if p < s.prof.hsyncLong.toNat then Config.syncLevel else Config.blankLevel))

/-- LINE.VSYNC completes on an existing buffer (R189). -/
theorem lineVsync_spec {j : Bool} {s : State} (hv : s.sbValid = true) (hl : (sbOf s j).length = lineWidth s)
    (hs : s.prof.hsyncLong.toNat ≤ lineWidth s) : LineIs s j (lineWidth s) (vsyncContent s) (lineVsync j s) := by
  have h := (((LineIs.start hl).write hv hs (fun _ => rfl)
    (k := fill j 0 s.prof.hsyncLong.toNat Config.syncLevel)).write
    hv (Nat.le_refl _) (fun _ => rfl) (k := fill j s.prof.hsyncLong.toNat (lineWidth s) Config.blankLevel))
  refine LineIs.congr h fun p hp => ?_
  simp only [vsyncContent]
  split_ifs <;> first | rfl | omega

/-- What R190 puts at position `p` for table entry `c`. -/
def palsyncContent (s : State) (c : BitVec 2) (p : Nat) : Option Sample :=
  let half := lineWidth s / 2
  some (levelWord (if p < half then
      if p < pulseWidth s.prof (c.getLsbD 1) then Config.syncLevel else Config.blankLevel
    else
      if p < half + pulseWidth s.prof (c.getLsbD 0) then Config.syncLevel else Config.blankLevel))

/-- LINE.PALSYNC completes on an existing buffer (R190). -/
theorem linePalsync_spec {j : Bool} {t : Nat} {c : BitVec 2} {s : State} (hc : palSyncRom t = some c)
    (hv : s.sbValid = true) (hl : (sbOf s j).length = lineWidth s)
    (h1 : s.prof.hsyncLong.toNat ≤ lineWidth s / 2) (h0 : s.prof.hsyncShort.toNat ≤ lineWidth s / 2) :
    LineIs s j (lineWidth s) (palsyncContent s c) (linePalsync j t s) := by
  have hw : ∀ b, pulseWidth s.prof b ≤ lineWidth s / 2 := by intro b; cases b <;> simpa [pulseWidth]
  have w1 := hw (c.getLsbD 1)
  have w0 := hw (c.getLsbD 0)
  simp only [linePalsync, hc]
  have h := (((((LineIs.start hl).write hv (show pulseWidth s.prof (c.getLsbD 1) ≤ _ by omega) (fun _ => rfl)
      (k := fill j 0 _ Config.syncLevel)).write
    hv (show lineWidth s / 2 ≤ _ by omega) (fun _ => rfl) (k := fill j (pulseWidth s.prof (c.getLsbD 1)) _ Config.blankLevel)).write
    hv (show lineWidth s / 2 + pulseWidth s.prof (c.getLsbD 0) ≤ _ by omega) (fun _ => rfl)
      (k := fill j (lineWidth s / 2) _ Config.syncLevel)).write
    hv (Nat.le_refl _) (fun _ => rfl)
      (k := fill j (lineWidth s / 2 + pulseWidth s.prof (c.getLsbD 0)) _ Config.blankLevel))
  simp only [andThen_assoc] at h
  refine LineIs.congr h fun p hp => ?_
  simp only [palsyncContent]
  split_ifs <;> first | rfl | omega

/-- What R186 puts at position `p` for mode `m`, burst row `b`. -/
def activeContent (s : State) (m : Mode) (b : List Byte) (row : Nat) (parity : Bool) (p : Nat) : Option Sample :=
  if p < s.prof.hsync.toNat then some (levelWord Config.syncLevel)
  else if p < s.prof.burstStart.toNat then some (levelWord Config.blankLevel)
  else if p < s.prof.burstStart.toNat + s.prof.burstWidth.toNat then
    (b[(p - s.prof.burstStart.toNat) % s.prof.spcc.toNat]?).map levelWord
  else if p < s.prof.activeStart.toNat then some (levelWord Config.blankLevel)
  else if p < s.prof.activeStart.toNat + Config.fbWidth * sppOf m then
    encodedSample (Config.palRom (variantOf m parity)) (fbOf s s.frontSel) row (sppOf m) (spccOf m)
      (p - s.prof.activeStart.toNat)
  else some (levelWord Config.blankLevel)

/-- LINE.ACTIVE completes on existing buffers, for a profile whose line parts are in order (R186, R8). -/
theorem lineActive_spec {j : Bool} {row : Nat} {parity : Bool} {m : Mode} {b : List Byte} {s : State}
    (hm : stateMode s = some m) (hb : burstLevels s parity = some b) (hspp : s.prof.spp.toNat = sppOf m)
    (hr : fbRowExists s row = true) (hv : s.sbValid = true) (hl : (sbOf s j).length = lineWidth s)
    (h1 : s.prof.hsync.toNat ≤ s.prof.burstStart.toNat)
    (h2 : s.prof.burstStart.toNat + s.prof.burstWidth.toNat ≤ s.prof.activeStart.toNat)
    (h3 : s.prof.activeStart.toNat + Config.fbWidth * s.prof.spp.toNat ≤ lineWidth s) :
    LineIs s j (lineWidth s) (activeContent s m b row parity) (lineActive j row parity s) := by
  have hbk : ∀ l, writeBurst j parity (setSb s j l) = writeSamples j s.prof.burstStart.toNat
      (s.prof.burstStart.toNat + s.prof.burstWidth.toNat)
      (fun p => (b[(p - s.prof.burstStart.toNat) % s.prof.spcc.toNat]?).map levelWord) (setSb s j l) := by
    intro l
    have hb' : burstLevels (setSb s j l) parity = some b := hb
    simp only [writeBurst, hb', setSb_prof]
    split
    · rename_i h0
      rw [h0, writeSamples, if_pos (sbRangeExists_iff.2 (.inl (by simp))), writeFrom_empty _ _ _ _ _ (by simp),
        setSb_self]
    · rfl
  have hek : ∀ l, encodePicture row j parity (setSb s j l) = writeSamples j s.prof.activeStart.toNat
      (s.prof.activeStart.toNat + Config.fbWidth * sppOf m)
      (fun p => encodedSample (Config.palRom (variantOf m parity)) (fbOf s s.frontSel) row (sppOf m) (spccOf m)
        (p - s.prof.activeStart.toNat)) (setSb s j l) := by
    intro l
    rw [encodePicture_eq (m := m) (by simpa using hm), encodeRow, if_pos (by simpa using hr)]
    rfl
  rw [hspp] at h3
  have h := ((((((LineIs.start hl).write hv (show s.prof.hsync.toNat ≤ _ by omega) (fun _ => rfl)
      (k := fill j 0 _ Config.syncLevel)).write
    hv (show s.prof.burstStart.toNat ≤ _ by omega) (fun _ => rfl)
      (k := fill j s.prof.hsync.toNat _ Config.blankLevel)).write hv (by omega) hbk).write
    hv (show s.prof.activeStart.toNat ≤ _ by omega) (fun _ => rfl)
      (k := fill j (s.prof.burstStart.toNat + s.prof.burstWidth.toNat) _ Config.blankLevel)).write hv h3 hek).write
    hv (Nat.le_refl _) (fun _ => rfl)
      (k := fill j (s.prof.activeStart.toNat + Config.fbWidth * s.prof.spp.toNat) _ Config.blankLevel)
  simp only [andThen_assoc] at h
  refine LineIs.congr h fun p hp => ?_
  simp only [activeContent, hspp]
  split_ifs <;> first | rfl | omega

end Sys2Proof.Machine
end

