-- ==== Sys2Proof/Laws/Tick.lean ====
section
/-!
SUPPORT. The frames of the line operations and what they read, SEQ.ADVANCE in one equation, and TICK: what every tick
that answers a next state leaves, and when a tick completes.
-/

namespace Sys2Proof.Machine

open Sys2Proof

/-! ### Frames of the line operations -/

/-- `k` changes nothing but the contents of `SB[j]`, whose length it keeps. -/
def OnlySb (j : Bool) (k : State → Result) : Prop :=
  ∀ s t, k s = .next t → ∃ l, t = setSb s j l ∧ l.length = (sbOf s j).length

theorem OnlySb.andThen {j : Bool} {k : State → Result} {k' : State → State → Result} (h : OnlySb j k) (h' : ∀ s, OnlySb j (k' s)) :
    OnlySb j fun s => Machine.andThen (k s) (k' s) := by
  intro s t ht
  obtain ⟨u, hu, hk⟩ := andThen_eq_next.1 ht
  obtain ⟨l, rfl, hl⟩ := h s u hu
  obtain ⟨l', rfl, hl'⟩ := h' s _ t hk
  exact ⟨l', by simp, by simpa [hl] using hl'⟩

theorem onlySb_writeSamples (j : Bool) (lo hi : State → Nat) (f : State → Nat → Option Sample) :
    OnlySb j fun s => writeSamples j (lo s) (hi s) (f s) s := fun _ _ h => writeSamples_frame h

theorem onlySb_fill (j : Bool) (lo hi : Nat) (v : Byte) : OnlySb j (fill j lo hi v) :=
  fun _ _ h => writeSamples_frame h

theorem onlySb_encodeRow (j : Bool) (h : State → Bool) (row o : State → Nat) (v : State → Bool) (spp spcc : Nat) :
    OnlySb j fun s => encodeRow (h s) (row s) j (o s) (v s) spp spcc s := fun _ _ ht => encodeRow_frame ht

theorem onlySb_next (j : Bool) : OnlySb j .next := fun s t h => by
  cases h
  exact ⟨sbOf s j, by simp, rfl⟩

theorem onlySb_encodePicture (row : Nat) (j parity : Bool) : OnlySb j (encodePicture row j parity) := by
  intro s t h
  unfold encodePicture at h
  split at h
  · exact encodeRow_frame h
  · exact encodeRow_frame h
  · exact encodeRow_frame h
  · exact onlySb_next j s t h

theorem onlySb_writeBurst (j parity : Bool) : OnlySb j (writeBurst j parity) := by
  intro s t h
  simp only [writeBurst] at h
  split at h
  · exact onlySb_next j s t h
  · split at h
    · exact writeSamples_frame h
    · cases h

theorem onlySb_lineBlank (j : Bool) : OnlySb j (lineBlank j) := by
  intro s
  exact (onlySb_fill j _ _ _).andThen (k' := fun _ _ => _) (fun _ => onlySb_fill j _ _ _) s

theorem onlySb_lineVsync (j : Bool) : OnlySb j (lineVsync j) := by
  intro s
  exact (onlySb_fill j _ _ _).andThen (k' := fun _ _ => _) (fun _ => onlySb_fill j _ _ _) s

theorem onlySb_linePalsync (j : Bool) (n : Nat) : OnlySb j (linePalsync j n) := by
  intro s t h
  simp only [linePalsync] at h
  split at h
  · cases h
  · exact (onlySb_fill j _ _ _).andThen (k' := fun _ _ => _) (fun _ =>
      (onlySb_fill j _ _ _).andThen (k' := fun _ _ => _) fun _ =>
      (onlySb_fill j _ _ _).andThen (k' := fun _ _ => _) fun _ => onlySb_fill j _ _ _) s t h

theorem onlySb_lineActive (j : Bool) (row : Nat) (parity : Bool) : OnlySb j (lineActive j row parity) := by
  intro s
  exact (onlySb_fill j _ _ _).andThen (k' := fun _ _ => _) (fun _ =>
    (onlySb_fill j _ _ _).andThen (k' := fun _ _ => _) fun _ =>
    (onlySb_writeBurst j parity).andThen (k' := fun _ _ => _) fun _ =>
    (onlySb_fill j _ _ _).andThen (k' := fun _ _ => _) fun _ =>
    (onlySb_encodePicture row j parity).andThen (k' := fun _ _ => _) fun _ => onlySb_fill j _ _ _) s

/-- Every line operation that answers a next state changes the buffer it fills and nothing else. -/
theorem onlySb_runLine (op : LineOp) (j : Bool) : OnlySb j (runLine op j) := by
  cases op with
  | active row parity => exact onlySb_lineActive j row parity
  | blank => exact onlySb_lineBlank j
  | vsync => exact onlySb_lineVsync j
  | palsync t => exact onlySb_linePalsync j t

/-! ### What the line operations read -/

/-- Two states alike in everything a line operation reads: the configuration, the front buffer, the sample buffers. -/
structure Alike (s s' : State) : Prop where
  prof : s'.prof = s.prof
  mode : stateMode s' = stateMode s
  frontSel : s'.frontSel = s.frontSel
  front : fbOf s' s.frontSel = fbOf s s.frontSel
  fbValid : s'.fbValid = s.fbValid
  sbValid : s'.sbValid = s.sbValid
  sb : ∀ j, sbOf s' j = sbOf s j

theorem Alike.setSb {s s' : State} (h : Alike s s') (j : Bool) (l : Line) : Alike (setSb s j l) (setSb s' j l) where
  prof := h.prof
  mode := h.mode
  frontSel := h.frontSel
  front := h.front
  fbValid := h.fbValid
  sbValid := h.sbValid
  sb j' := by
    have := h.sb j'
    cases j <;> cases j' <;> first | rfl | exact this

/-- On alike states `k` fills `SB[j]` alike. -/
def FillsAlike (j : Bool) (k : State → Result) : Prop :=
  ∀ s s' l, Alike s s' → k s = .next (setSb s j l) → k s' = .next (setSb s' j l)

theorem FillsAlike.andThen {j : Bool} {k k' : State → Result} (ho : OnlySb j k) (h : FillsAlike j k)
    (h' : FillsAlike j k') : FillsAlike j fun s => Machine.andThen (k s) k' := by
  intro s s' l ha hs
  obtain ⟨u, hu, hk⟩ := andThen_eq_next.1 hs
  obtain ⟨l1, rfl, -⟩ := ho s u hu
  have h2 := h' _ _ l (ha.setSb j l1) (by simpa using hk)
  exact andThen_eq_next.2 ⟨_, h s s' l1 ha hu, by simpa using h2⟩

theorem setSb_inj {s : State} {j : Bool} {l l' : Line} (h : setSb s j l = setSb s j l') : l = l' := by
  have := congrArg (sbOf · j) h
  simpa using this

theorem fillsAlike_writeSamples (j : Bool) (lo hi : Nat) (f : Nat → Option Sample) :
    FillsAlike j (writeSamples j lo hi f) := by
  intro s s' l ha h
  have hr : sbRangeExists s' j lo hi = sbRangeExists s j lo hi := by
    rw [sbRangeExists, sbRangeExists, ha.sbValid, ha.sb]
  rcases writeSamples_cases j lo hi f s with ⟨h1, h2⟩ | ⟨h1, h2⟩
  · rw [h2, Host.Outcome.next.injEq] at h
    rw [writeSamples, if_pos (hr.trans h1), ha.sb, setSb_inj h]
  · rw [h2] at h
    cases h

theorem fillsAlike_fill (j : Bool) (lo hi : Nat) (v : Byte) : FillsAlike j (fill j lo hi v) :=
  fillsAlike_writeSamples j lo hi _

theorem fillsAlike_next (j : Bool) : FillsAlike j .next := by
  intro s s' l ha h
  have hl : sbOf s j = l := by
    have := congrArg (sbOf · j) (Host.Outcome.next.inj h)
    simpa using this
  rw [← hl, ← ha.sb, setSb_self]

theorem fillsAlike_encodePicture (row : Nat) (j parity : Bool) : FillsAlike j (encodePicture row j parity) := by
  intro s s' l ha h
  have he : ∀ v spp spcc, encodeRow s.frontSel row j s.prof.activeStart.toNat v spp spcc s = .next (setSb s j l) →
      encodeRow s'.frontSel row j s'.prof.activeStart.toNat v spp spcc s' = .next (setSb s' j l) := by
    intro v spp spcc h
    have hr : fbRowExists s' row = fbRowExists s row := by rw [fbRowExists, fbRowExists, ha.fbValid, ha.prof]
    unfold encodeRow at h ⊢
    rw [hr, ha.frontSel, ha.prof, ha.front]
    split at h
    · rw [if_pos ‹_›]
      exact fillsAlike_writeSamples _ _ _ _ s s' l ha h
    · cases h
  unfold encodePicture at h ⊢
  rw [ha.mode]
  split at h
  · exact he _ _ _ h
  · exact he _ _ _ h
  · exact he _ _ _ h
  · exact fillsAlike_next j s s' l ha h

theorem fillsAlike_writeBurst (j parity : Bool) : FillsAlike j (writeBurst j parity) := by
  intro s s' l ha h
  have hb : burstLevels s' parity = burstLevels s parity := by rw [burstLevels, burstLevels, ha.mode, ha.prof]
  simp only [writeBurst] at h ⊢
  rw [ha.prof, hb]
  split at h
  · rw [if_pos ‹_›]
    exact fillsAlike_next j s s' l ha h
  · rw [if_neg ‹_›]
    split at h
    · exact fillsAlike_writeSamples _ _ _ _ s s' l ha h
    · cases h

/-- A line operation fills a buffer alike from alike states: it reads nothing else. -/
theorem fillsAlike_runLine (op : LineOp) (j : Bool) : FillsAlike j (runLine op j) := by
  intro s s' l ha h
  cases op with
  | active row parity =>
    simp only [runLine, lineActive, ha.prof] at h ⊢
    have f := fun lo hi v => onlySb_fill j lo hi v
    have g := fun lo hi v => fillsAlike_fill j lo hi v
    exact ((g _ _ _).andThen (f _ _ _) ((g _ _ _).andThen (f _ _ _) ((fillsAlike_writeBurst j parity).andThen
      (onlySb_writeBurst j parity) ((g _ _ _).andThen (f _ _ _) ((fillsAlike_encodePicture row j parity).andThen
      (onlySb_encodePicture row j parity) (g _ _ _)))))) s s' l ha h
  | blank =>
    simp only [runLine, lineBlank, ha.prof] at h ⊢
    exact ((fillsAlike_fill j _ _ _).andThen (onlySb_fill j _ _ _) (fillsAlike_fill j _ _ _)) s s' l ha h
  | vsync =>
    simp only [runLine, lineVsync, ha.prof] at h ⊢
    exact ((fillsAlike_fill j _ _ _).andThen (onlySb_fill j _ _ _) (fillsAlike_fill j _ _ _)) s s' l ha h
  | palsync t =>
    simp only [runLine, linePalsync, ha.prof] at h ⊢
    split at h
    · cases h
    · have f := fun lo hi v => onlySb_fill j lo hi v
      have g := fun lo hi v => fillsAlike_fill j lo hi v
      exact ((g _ _ _).andThen (f _ _ _) ((g _ _ _).andThen (f _ _ _) ((g _ _ _).andThen (f _ _ _) (g _ _ _)))) s s' l
        ha h

/-! ### The line operations do not see `uop` -/

/-- `s` with other operands for a micro-operation standing alone. -/
abbrev withUop (u : MicroOperands) (s : State) : State := { s with uop := u }

/-- `k` neither reads nor writes `uop`. -/
def BlindToUop (k : State → Result) : Prop := ∀ u s, k (withUop u s) = mapNext (withUop u) (k s)

theorem BlindToUop.andThen {k k' : State → Result} (h : BlindToUop k) (h' : BlindToUop k') :
    BlindToUop fun s => Machine.andThen (k s) k' := by
  intro u s
  simp only [h u s]
  cases k s with
  | next t => exact h' u t
  | fault e => rfl
  | refused r => rfl

theorem blind_writeSamples (j : Bool) (lo hi : Nat) (f : Nat → Option Sample) : BlindToUop (writeSamples j lo hi f) := by
  intro u s
  have hs : withUop u (setSb s j (writeFrom 0 lo hi f (sbOf s j))) =
      setSb (withUop u s) j (writeFrom 0 lo hi f (sbOf (withUop u s) j)) := by
    cases j <;> rfl
  unfold writeSamples
  rw [show sbRangeExists (withUop u s) j lo hi = sbRangeExists s j lo hi by cases j <;> rfl, ← hs]
  split <;> rfl

theorem blind_fill (j : Bool) (lo hi : Nat) (v : Byte) : BlindToUop (fill j lo hi v) := blind_writeSamples j lo hi _

theorem blind_encodePicture (row : Nat) (j parity : Bool) : BlindToUop (encodePicture row j parity) := by
  intro u s
  have he : ∀ v spp spcc, encodeRow s.frontSel row j s.prof.activeStart.toNat v spp spcc (withUop u s) =
      mapNext (withUop u) (encodeRow s.frontSel row j s.prof.activeStart.toNat v spp spcc s) := by
    intro v spp spcc
    unfold encodeRow
    rw [show fbRowExists (withUop u s) row = fbRowExists s row from rfl]
    split
    · exact blind_writeSamples j _ _ _ u s
    · rfl
  unfold encodePicture
  rw [show stateMode (withUop u s) = stateMode s from rfl]
  split
  · exact he _ _ _
  · exact he _ _ _
  · exact he _ _ _
  · rfl

theorem blind_writeBurst (j parity : Bool) : BlindToUop (writeBurst j parity) := by
  intro u s
  unfold writeBurst
  rw [show burstLevels (withUop u s) parity = burstLevels s parity from rfl]
  simp only
  split
  · rfl
  · split
    · exact blind_writeSamples j _ _ _ u s
    · rfl

/-- No line operation reads or writes `uop`: inside a TICK its operands are its arguments (log 3). -/
theorem blind_runLine (op : LineOp) (j : Bool) : BlindToUop (runLine op j) := by
  have g := blind_fill j
  intro u s
  cases op with
  | active row parity =>
    exact ((g _ _ _).andThen ((g _ _ _).andThen ((blind_writeBurst j parity).andThen ((g _ _ _).andThen
      ((blind_encodePicture row j parity).andThen (g _ _ _)))))) u s
  | blank => exact ((g _ _ _).andThen (g _ _ _)) u s
  | vsync => exact ((g _ _ _).andThen (g _ _ _)) u s
  | palsync t =>
    simp only [runLine, linePalsync]
    split
    · rfl
    · exact ((g _ _ _).andThen ((g _ _ _).andThen ((g _ _ _).andThen (g _ _ _)))) u s

/-! ### SEQ.ADVANCE -/

/-- The line counter is at the last line of the field. -/
abbrev atWrap (s : State) : Prop := s.lineCounter.toNat + 1 = s.prof.totalLines.toNat

/-- Away from the wrap SEQ.ADVANCE moves the line counter only (R194). -/
theorem advance_within {s : State} (h : ¬ atWrap s) :
    advance s = { s with lineCounter := BitVec.ofNat 16 (s.lineCounter.toNat + 1) } := by
  rw [advance, if_neg h]

/-- At the wrap with nothing committed it counts a field (R194). -/
theorem advance_wrap {s : State} (h : atWrap s) (hr : s.ready = false) :
    advance s = { s with lineCounter := 0, frameCount := s.frameCount + 1 } := by
  rw [advance, if_pos h]
  simp [hr]

/-- At the wrap with a committed frame it also swaps (R194). -/
theorem advance_swap {s : State} (h : atWrap s) (hr : s.ready = true) :
    advance s = { s with
      lineCounter := 0, frameCount := s.frameCount + 1, frontSel := !s.frontSel, ready := false,
      swapCount := s.swapCount + 1, wakePending := true } := by
  rw [advance, if_pos h]
  simp [hr, swapBuffers]

/-- The three cases of SEQ.ADVANCE. -/
theorem advance_cases (s : State) :
    (¬ atWrap s ∧ advance s = { s with lineCounter := BitVec.ofNat 16 (s.lineCounter.toNat + 1) }) ∨
    (atWrap s ∧ s.ready = false ∧ advance s = { s with lineCounter := 0, frameCount := s.frameCount + 1 }) ∨
    (atWrap s ∧ s.ready = true ∧ advance s = { s with
      lineCounter := 0, frameCount := s.frameCount + 1, frontSel := !s.frontSel, ready := false,
      swapCount := s.swapCount + 1, wakePending := true }) := by
  by_cases h : atWrap s
  · by_cases hr : s.ready = true
    · exact .inr (.inr ⟨h, hr, advance_swap h hr⟩)
    · rw [Bool.not_eq_true] at hr
      exact .inr (.inl ⟨h, hr, advance_wrap h hr⟩)
  · exact .inl ⟨h, advance_within h⟩

/-- SEQ.ADVANCE touches no field but its six. -/
theorem advance_frame (s : State) :
    advance s = { s with
      lineCounter := (advance s).lineCounter, frameCount := (advance s).frameCount, frontSel := (advance s).frontSel,
      ready := (advance s).ready, swapCount := (advance s).swapCount, wakePending := (advance s).wakePending } := by
  rcases advance_cases s with ⟨-, h⟩ | ⟨-, -, h⟩ | ⟨-, -, h⟩ <;> rw [h]

/-! ### TICK -/

@[simp] theorem streamed_length (d : Nat) (l : Line) : (streamed d l).length = l.length := by
  induction l generalizing d with
  | nil => rfl
  | cons x xs ih => simp [streamed, ih]

theorem streamed_getElem? (d : Nat) (l : Line) (p : Nat) :
    (streamed d l)[p]? = (l[p]?).map fun x => x.getD (Config.freeSample (d + p)) := by
  induction l generalizing d p with
  | nil => simp [streamed]
  | cons x xs ih =>
    cases p with
    | zero => simp [streamed]
    | succ p => simp [streamed, ih, show d + 1 + p = d + (p + 1) by omega]

/-- What a tick has recorded before it fills: OUT and the draws. -/
def drained (s : State) : State :=
  { s with
    out := s.out ++ [streamed s.draws ((sbOf s s.fillSel).take (lineWidth s))]
    draws := s.draws + lineWidth s }

theorem drain_eq_next {s t : State} (h : drain s.fillSel s = .next t) : t = drained s := by
  unfold drain at h
  split at h
  · cases h; rfl
  · cases h

/-- Every tick that answers a next state: the streamed line appended to OUT, one line operation on `SB[fillSel]`, the
buffer number inverted, SEQ.ADVANCE. -/
theorem tickBody_eq_next {s t : State} (h : tickBody s = .next t) :
    ∃ l : Line, l.length = (sbOf s s.fillSel).length ∧
      runLine (lineProgram s.prof s.lineCounter.toNat) s.fillSel (drained s) =
        .next (setSb (drained s) s.fillSel l) ∧
      t = advance { setSb (drained s) s.fillSel l with fillSel := !s.fillSel } := by
  obtain ⟨s1, h1, h2⟩ := andThen_eq_next.1 h
  obtain rfl := drain_eq_next h1
  obtain ⟨s2, h3, h4⟩ := andThen_eq_next.1 h2
  obtain ⟨l, rfl, hl⟩ := onlySb_runLine _ _ _ _ h3
  refine ⟨l, hl, h3, ?_⟩
  cases h4
  rfl

/-- A tick completes when the buffer to stream exists and the selected line operation completes. -/
theorem tickBody_next {s : State} {l : Line} (hv : s.sbValid = true) (hl : (sbOf s s.fillSel).length = lineWidth s)
    (hr : runLine (lineProgram s.prof s.lineCounter.toNat) s.fillSel (drained s) =
      .next (setSb (drained s) s.fillSel l)) :
    tickBody s = .next (advance { setSb (drained s) s.fillSel l with fillSel := !s.fillSel }) := by
  have hd : drain s.fillSel s = .next (drained s) := by
    rw [drain, if_pos (sbRangeExists_iff.2 (.inr ⟨hv, by omega⟩))]
    rfl
  rw [tickBody, hd, andThen_next, hr, andThen_next]
  rfl

end Sys2Proof.Machine
end

