-- ==== Sys2Proof/Laws/Step.lean ====
section
/-!
SUPPORT. What a host command can do and what a move of the spec can do, each said once: the two inversions the lemmas
about steps go through.
-/

namespace Sys2Proof.Machine

open Sys2Proof

/-- Everything a host command can do to `s` when it answers a next state. -/
inductive CommandEffect (s : State) : Instr → State → Prop
  /-- In HALTED it is ignored (R287). -/
  | ignored {i : Instr} (h : s.phase = .halted) : CommandEffect s i s
  /-- It raises a fatal error (R281). -/
  | fatal {i : Instr} (e : FatalError) (opcode : Byte) (cause : BitVec 4) (h : s.phase ≠ .halted) :
      CommandEffect s i (raiseFatal e opcode cause s)
  | nop (h : s.phase ≠ .halted) : CommandEffect s .nop (finish .done s)
  | init (m : Mode) (std spcc : Nat) (h : s.phase = .unconfigured ∨ s.phase = .configured)
      (hm : modeOf std spcc = some m) : CommandEffect s (.init std spcc) (configure profileOf m std spcc s)
  | beginEngine (h : s.phase = .configured) (hp : s.plan.valid = true) : CommandEffect s .beginEngine (beginSteps s)
  | teardownIdle (h : s.phase = .unconfigured) : CommandEffect s .teardown (finish .done s)
  | teardown (h : s.phase = .configured ∨ s.phase = .active) : CommandEffect s .teardown (teardownSteps s)
  | getwb (h : s.phase = .active) : CommandEffect s .getwb (finish .done { s with r0 := bitWord (!s.frontSel) })
  | fbwr (row col : Nat) (h : s.phase = .active) (hh : fbwrHandle s = !s.frontSel)
      (hr : row < s.prof.activeLines.toNat) (hc : col < Config.fbWidth) :
      CommandEffect s (.fbwr row col) (finish .done
        (setFb s (fbwrHandle s) (memWrite (fbOf s (fbwrHandle s)) (fbIndex row col) (fbwrPixel s))))
  | commit (h : s.phase = .active) :
      CommandEffect s .commit { s with wakePending := false, ready := true, prodWaiting := true }
  | getfc (h : s.phase ≠ .halted) : CommandEffect s .getfc (finish .done { s with r0 := s.frameCount })
  | getsc (h : s.phase ≠ .halted) : CommandEffect s .getsc (finish .done { s with r0 := s.swapCount })
  | csCoarse (r : Report) (x y z : Word) (h : s.phase ≠ .halted) :
      CommandEffect s .csCoarse (finish r { s with r0 := x, r1 := y, r2 := z })
  | csFine (r : Report) (x y z u : Word) (h : s.phase ≠ .halted) :
      CommandEffect s .csFine (finish r { s with r0 := x, r1 := y, r2 := z, r3 := u })

/-- Outside HALTED a command's own rule applies. -/
theorem unlessHalted_eq_next {s t : State} {k : Result} (h : unlessHalted s k = .next t) :
    (s.phase = .halted ∧ t = s) ∨ (s.phase ≠ .halted ∧ k = .next t) := by
  unfold unlessHalted at h
  split at h
  · cases h
    exact .inl ⟨‹_›, rfl⟩
  · exact .inr ⟨‹_›, h⟩

/-- The phase check passes in ACTIVE and raises cause 3 elsewhere. -/
theorem requireActive_eq_next {op : Byte} {s t : State} {k : Result} (h : requireActive op s k = .next t) :
    (s.phase = .active ∧ k = .next t) ∨ t = raiseFatal .configurationError op 3 s := by
  unfold requireActive at h
  split at h
  · exact .inl ⟨‹_›, h⟩
  · cases h
    exact .inr rfl

/-- Everything a host command can do. -/
theorem command_effect {i : Instr} {s t : State} (hi : isMicroOp i = false) (h : exec i s = .next t) :
    CommandEffect s i t := by
  have key : ∀ k, unlessHalted s k = .next t → (s.phase ≠ .halted → k = .next t → CommandEffect s i t) →
      CommandEffect s i t := by
    intro k hk hn
    rcases unlessHalted_eq_next hk with ⟨h1, rfl⟩ | ⟨h1, h2⟩
    · exact .ignored h1
    · exact hn h1 h2
  cases i with
  | nop => exact key _ h fun h1 h2 => by cases h2; exact .nop h1
  | init std spcc =>
    refine key _ h fun h1 h2 => ?_
    split at h2
    · cases h2; exact .fatal _ _ _ h1
    · split at h2
      · cases h2; exact .fatal _ _ _ h1
      · split at h2
        · cases h2; exact .fatal _ _ _ h1
        · cases h2
          refine .init _ _ _ ?_ ‹_›
          cases hp : s.phase <;> simp_all
  | beginEngine =>
    refine key _ h fun h1 h2 => ?_
    split at h2
    · cases h2; exact .fatal _ _ _ h1
    · split at h2
      · cases h2; exact .fatal _ _ _ h1
      · cases h2
        cases hp : s.phase <;> simp_all
        exact .beginEngine hp ‹_›
  | teardown =>
    refine key _ h fun h1 h2 => ?_
    split at h2
    · cases h2; exact .teardownIdle ‹_›
    · cases h2
      refine .teardown ?_
      cases hp : s.phase <;> simp_all
  | getwb =>
    refine key _ h fun h1 h2 => ?_
    rcases requireActive_eq_next h2 with ⟨h3, h4⟩ | rfl
    · cases h4; exact .getwb h3
    · exact .fatal _ _ _ h1
  | fbwr row col =>
    refine key _ h fun h1 h2 => ?_
    rcases requireActive_eq_next h2 with ⟨h3, h4⟩ | rfl
    · split at h4
      · cases h4; exact .fatal _ _ _ h1
      · split at h4
        · cases h4; exact .fatal _ _ _ h1
        · rename_i hh hr
          obtain ⟨u, hu, h5⟩ := andThen_eq_next.1 h4
          unfold storePixel at hu
          split at hu
          · cases hu; cases h5
            refine .fbwr row col h3 ?_ (by omega) (by omega)
            cases hb : fbwrHandle s <;> cases hf : s.frontSel <;> simp_all
          · cases hu
    · exact .fatal _ _ _ h1
  | commit =>
    refine key _ h fun h1 h2 => ?_
    rcases requireActive_eq_next h2 with ⟨h3, h4⟩ | rfl
    · cases h4; exact .commit h3
    · exact .fatal _ _ _ h1
  | getfc => exact key _ h fun h1 h2 => by cases h2; exact .getfc h1
  | getsc => exact key _ h fun h1 h2 => by cases h2; exact .getsc h1
  | csCoarse =>
    refine key _ h fun h1 h2 => ?_
    split at h2
    · cases h2; exact .csCoarse _ _ _ _ h1
    · cases h2; exact .csCoarse _ _ _ _ h1
  | csFine =>
    refine key _ h fun h1 h2 => ?_
    split at h2
    · cases h2; exact .csFine _ _ _ _ _ h1
    · cases h2; exact .csFine _ _ _ _ _ h1
  | lineActive | lineBlank | lineVsync | linePalsync | peEncN3 | peEncN4 | peEncP4 | seqAdvance | fbAlloc | csApply
  | csSynth => exact absurd hi (by decide)

/-- A command word decodes to a host command, never to a micro-operation (R107). -/
theorem isMicroOp_of_decodeCommand {w : Word} {i : Instr} (h : decodeCommand w = .ok i) : isMicroOp i = false := by
  have hz : ∀ j, isMicroOp j = false → decodeZ j w = .ok i → isMicroOp i = false := by
    intro j hj he
    unfold decodeZ at he
    split at he
    · cases he; exact hj
    · cases he
  unfold decodeCommand at h
  split at h
  · exact hz _ rfl h
  · unfold decodeI at h
    split at h
    · cases h; rfl
    · cases h
  · exact hz _ rfl h
  · exact hz _ rfl h
  · exact hz _ rfl h
  · cases h; rfl
  · exact hz _ rfl h
  · exact hz _ rfl h
  · exact hz _ rfl h
  · exact hz _ rfl h
  · exact hz _ rfl h
  · cases h

/-- Everything a move of the spec can do when it answers a next state. -/
inductive SpecStep (s : State) : State → Prop
  /-- The schedule is empty. -/
  | idle (h : s.sched = []) : SpecStep s s
  /-- A disabled line-completion event, a suspended producer without a wake, a producer at the end of its program, or a
  word on `CMD` in HALTED with its statement consumed: nothing else changes. -/
  | skip {m : Move} {rest : List Move} (ops : List ProdOp) (h : s.sched = m :: rest) (hr : m ≠ .reset)
      (ho : ops ≠ s.prog → m = .producer ∧ s.phase = .halted ∧ ∃ o, s.prog = o :: ops)
      (ht : m = .tick → s.tickEnable = false)
      (hw : m = .producer → s.prodWaiting = true → s.wakePending = false) :
      SpecStep s { s with sched := rest, prog := ops }
  | complete {rest : List Move} (h : s.sched = .producer :: rest) (hp : s.prodWaiting = true)
      (hw : s.wakePending = true) : SpecStep s (completeCommit { s with sched := rest })
  | read {rest : List Move} {ops : List ProdOp} (n : Nat) (h : s.sched = .producer :: rest)
      (ho : s.prog = .read n :: ops) :
      SpecStep s { s with sched := rest, prog := ops, rdata := readReg s n }
  | argument {rest : List Move} {ops : List ProdOp} (n : Nat) (v : Word) (h : s.sched = .producer :: rest)
      (ho : s.prog = .write n v :: ops) : SpecStep s (writeArgument { s with sched := rest, prog := ops } n v)
  | illegal {rest : List Move} {ops : List ProdOp} (w : Word) (h : s.sched = .producer :: rest)
      (hp : s.prodWaiting = false) (ho : s.prog = .write 0 w :: ops) (hh : s.phase ≠ .halted) :
      SpecStep s (raiseFatal .illegalCommand (opField w) 0 { s with sched := rest, prog := ops })
  | command {rest : List Move} {ops : List ProdOp} {t : State} (w : Word) (i : Instr)
      (h : s.sched = .producer :: rest) (hp : s.prodWaiting = false) (ho : s.prog = .write 0 w :: ops)
      (hd : decodeCommand w = .ok i) (hh : s.phase ≠ .halted)
      (he : CommandEffect { s with sched := rest, prog := ops } i t) : SpecStep s t
  | tick {rest : List Move} (l : Line) (h : s.sched = .tick :: rest) (ht : s.tickEnable = true)
      (hl : l.length = (sbOf s s.fillSel).length) :
      SpecStep s (advance { setSb (drained { s with sched := rest }) s.fillSel l with fillSel := !s.fillSel })
  | extAcq {rest : List Move} (h : s.sched = .extAcq :: rest) : SpecStep s (extAcquire { s with sched := rest })
  | extRel {rest : List Move} (h : s.sched = .extRel :: rest) : SpecStep s (extRelease { s with sched := rest })
  | extCfg {rest : List Move} (f : Word) (h : s.sched = .extCfg f :: rest) :
      SpecStep s (extConfigure f { s with sched := rest })
  | reset {rest : List Move} (h : s.sched = .reset :: rest) : SpecStep s (resetBlock { s with sched := rest })

/-- Everything a move of the spec can do. -/
theorem spec_step {s t : State} (hm : s.specMove = true) (h : step s = .next t) : SpecStep s t := by
  simp only [step, nextMove] at h
  split at h
  · cases h; exact .idle ‹_›
  · rename_i m rest hs
    cases m with
    | producer =>
      simp only [runMove, producerTurn] at h
      split at h
      · rename_i hp
        split at h
        · cases h; exact .complete hs hp ‹_›
        · rename_i hw
          cases h
          exact .skip s.prog hs nofun (fun h => absurd rfl h) nofun (fun _ _ => by simpa using hw)
      · rename_i hp
        split at h
        · rename_i hn
          cases h
          exact .skip s.prog hs nofun (fun h => absurd rfl h) nofun (fun _ h => absurd h hp)
        · rename_i op ops ho
          cases op with
          | read n => cases h; exact .read n hs ho
          | write n v =>
            simp only [runStatement] at h
            split at h
            · rename_i hn
              subst hn
              rcases unlessHalted_eq_next h with ⟨h1, rfl⟩ | ⟨h1, h2⟩
              · exact .skip ops hs nofun (fun _ => ⟨rfl, h1, _, ho⟩) nofun (fun _ h => absurd h hp)
              · split at h2
                · rename_i i hd
                  exact .command v i hs (by simpa using hp) ho hd h1
                    (command_effect (isMicroOp_of_decodeCommand hd) h2)
                · cases h2
                  exact .illegal v hs (by simpa using hp) ho h1
            · cases h; exact .argument n v hs ho
    | tick =>
      simp only [runMove, lineEvent] at h
      split at h
      · rename_i ht
        obtain ⟨l, hl, -, rfl⟩ := tickBody_eq_next h
        exact .tick l hs ht hl
      · rename_i ht
        cases h
        exact .skip s.prog hs nofun (fun h => absurd rfl h) (fun _ => by simpa using ht) nofun
    | extAcq => cases h; exact .extAcq hs
    | extRel => cases h; exact .extRel hs
    | extCfg f => cases h; exact .extCfg f hs
    | reset => cases h; exact .reset hs
    | micro c u => simp [State.specMove, hs] at hm

end Sys2Proof.Machine
end

