-- ==== Sys2Proof/Laws/Field.lean ====
section
/-!
SUPPORT. The line program of each latched mode, and that from every state of the invariant the line operation it selects
completes.
-/

namespace Sys2Proof.Machine

open Sys2Proof

/-- The line program of an NTSC profile of R7, line index by line index (R184). -/
theorem lineProgram_ntsc {m : Mode} (hm : m = .ntsc3 ∨ m = .ntsc4) {i : Nat} (_hi : i < 262) :
    lineProgram (profileOf m) i =
      if i ≤ 239 then .active i false else if i ≤ 244 then .blank else if i ≤ 247 then .vsync else .blank := by
  have h1 : (profileOf m).std.toNat = 0 ∧ (profileOf m).activeLines.toNat = 240 := by
    rcases hm with rfl | rfl <;> exact ⟨rfl, rfl⟩
  simp only [lineProgram, h1, Config.ntscPostBlank, Config.ntscVsync]
  split_ifs <;> first | rfl | omega

/-- The line program of the PAL profile of R7 (R185). -/
theorem lineProgram_pal {i : Nat} (_hi : i < 312) :
    lineProgram (profileOf .pal4) i =
      if i ≤ 31 then .blank else if i ≤ 271 then .active (i - 32) (decide (i % 2 = 1))
      else if i ≤ 303 then .blank else .palsync (i - 304) := by
  have h1 : (profileOf .pal4).std.toNat = 1 ∧ (profileOf .pal4).activeLines.toNat = 240 := ⟨rfl, rfl⟩
  have h2 : Config.palActiveFirst = 32 ∧ Config.palVsyncFirst = 304 := ⟨rfl, rfl⟩
  rw [lineProgram, if_neg (by omega)]
  split_ifs <;> first | omega | simp [h2]

/-- What the selected line operation asks of the row, the parity and the table index, in each latched mode. -/
theorem lineProgram_operands {m : Mode} {i : Nat} (hi : i < (profileOf m).totalLines.toNat) :
    (∃ row parity, lineProgram (profileOf m) i = .active row parity ∧ row < (profileOf m).activeLines.toNat ∧
      (parity = true → m = .pal4)) ∨
    lineProgram (profileOf m) i = .blank ∨ lineProgram (profileOf m) i = .vsync ∨
    ∃ t, lineProgram (profileOf m) i = .palsync t ∧ t < 8 ∧ m = .pal4 := by
  cases m with
  | ntsc3 | ntsc4 =>
    have hi' : i < 262 := hi
    rw [lineProgram_ntsc (by simp) hi']
    split_ifs with h1 h2 h3
    · exact .inl ⟨i, false, rfl, by simp only [profileOf]; simp; omega, nofun⟩
    · exact .inr (.inl rfl)
    · exact .inr (.inr (.inl rfl))
    · exact .inr (.inl rfl)
  | pal4 =>
    have hi' : i < 312 := hi
    rw [lineProgram_pal hi']
    split_ifs with h1 h2 h3
    · exact .inr (.inl rfl)
    · exact .inl ⟨i - 32, _, rfl, by simp only [profileOf]; simp; omega, fun _ => rfl⟩
    · exact .inr (.inl rfl)
    · exact .inr (.inr (.inr ⟨i - 304, rfl, by omega, rfl⟩))

/-- BURST_ROM has the row a latched mode's line asks for. -/
theorem burstLevels_latched {s : State} {m : Mode} (hm : stateMode s = some m) (hp : s.prof = profileOf m) {parity : Bool}
    (hq : parity = true → m = .pal4) : ∃ b, burstLevels s parity = some b := by
  cases m <;> cases parity <;> first
    | exact absurd (hq rfl) (by decide)
    | exact ⟨_, by simp [burstLevels, hm, burstRom, hp, profileOf]; rfl⟩

/-- From every state of the invariant with the interrupt enabled, the selected line operation completes on `SB[fillSel]`
(R289). -/
theorem runLine_completes {s : State} (h : s.Inv) (ht : s.tickEnable = true) :
    ∃ l : Line, runLine (lineProgram s.prof s.lineCounter.toNat) s.fillSel s = .next (setSb s s.fillSel l) ∧
      l.length = lineWidth s := by
  have ha : s.phase = .active := by
    have := h.tickEnabled
    simpa [ht] using this
  have hv := h.activePhase ha
  obtain ⟨m, hm, hp, -⟩ := h.latched (h.startedConfig hv).1
  have hl : (sbOf s s.fillSel).length = lineWidth s := by
    have := h.sbSize hv
    unfold sbOf
    split
    · exact this.2
    · exact this.1
  have key : ∀ {g : Nat → Option Sample} {o : Result}, LineIs s s.fillSel (lineWidth s) g o →
      ∃ l : Line, o = .next (setSb s s.fillSel l) ∧ l.length = lineWidth s := fun ⟨l, h1, h2, _⟩ => ⟨l, h1, h2⟩
  have hw : lineWidth s = (profileOf m).lineWidth.toNat := by rw [lineWidth, hp]
  have hc := h.counter hv
  rw [hp] at hc
  rcases lineProgram_operands hc with ⟨row, parity, e, hr, hq⟩ | e | e | ⟨t, e, hr, rfl⟩ <;> rw [hp, e]
  · obtain ⟨b, hb⟩ := burstLevels_latched hm hp hq
    refine key (lineActive_spec hm hb ?_ ?_ hv hl ?_ ?_ ?_)
    · rw [hp]; cases m <;> rfl
    · simp [fbRowExists, h.fbWithSb, hv, hp, hr]
    all_goals
      simp only [hw, hp]
      cases m <;> decide
  · refine key (lineBlank_spec hv hl ?_)
    rw [hw, hp]
    cases m <;> decide
  · refine key (lineVsync_spec hv hl ?_)
    rw [hw, hp]
    cases m <;> decide
  · obtain ⟨c, hc⟩ : ∃ c, palSyncRom t = some c := by
      interval_cases t <;> exact ⟨_, rfl⟩
    refine key (linePalsync_spec hc hv hl ?_ ?_) <;>
    · rw [hw, hp]
      decide

/-- Recording the streamed line leaves everything a line operation reads. -/
theorem alike_drained (s : State) : Alike s (drained s) :=
  ⟨rfl, rfl, rfl, rfl, rfl, rfl, fun _ => rfl⟩

/-- The turn of an agent leaves everything a line operation reads when only its move is consumed. -/
theorem alike_sched (s : State) (rest : List Move) : Alike s { s with sched := rest } :=
  ⟨rfl, rfl, rfl, rfl, rfl, rfl, fun _ => rfl⟩

/-- From every state of the invariant an enabled line-completion event is one whole TICK, with the line the selected
operation makes of that state. -/
theorem lineEvent_completes {s : State} (h : s.Inv) (ht : s.tickEnable = true) :
    ∃ l : Line, runLine (lineProgram s.prof s.lineCounter.toNat) s.fillSel s = .next (setSb s s.fillSel l) ∧
      l.length = lineWidth s ∧
      lineEvent s = .next (advance { setSb (drained s) s.fillSel l with fillSel := !s.fillSel }) := by
  obtain ⟨l, h1, h2⟩ := runLine_completes h ht
  have ha : s.phase = .active := by
    have := h.tickEnabled
    simpa [ht] using this
  have hv := h.activePhase ha
  have hl : (sbOf s s.fillSel).length = lineWidth s := by
    have := h.sbSize hv
    unfold sbOf
    split
    · exact this.2
    · exact this.1
  refine ⟨l, h1, h2, ?_⟩
  rw [lineEvent, if_pos ht]
  exact tickBody_next hv hl (fillsAlike_runLine _ _ s _ l (alike_drained s) h1)

end Sys2Proof.Machine
end

