-- ==== Sys2Proof/Laws/Lifecycle.lean ====
section
/-!
SUPPORT. BEGIN and TEARDOWN each in one record, so that no later proof unfolds their steps, and the oscillator after
CS.APPLY.
-/

namespace Sys2Proof.Machine

open Sys2Proof

/-- CS.APPLY touches the oscillator only. -/
theorem applyPlan_eq (s : State) :
    applyPlan s = { s with oscFreq := (applyPlan s).oscFreq, oscPlan := (applyPlan s).oscPlan } := rfl

/-- BEGIN in one record; the oscillator and `R0`, `R1`, `LASTERR` are those of CS.APPLY with the reference taken. -/
theorem beginSteps_eq (s : State) :
    beginSteps s =
      let u := { s with oscHeld := true }
      { s with
        fb0 := [], fb1 := [], fbValid := true, sb0 := List.replicate (lineWidth s) none,
        sb1 := List.replicate (lineWidth s) none, sbValid := true, lineCounter := 0, frameCount := 0, swapCount := 0,
        frontSel := false, ready := false, fillSel := false, wakePending := false, out := [], oscHeld := true,
        outEnable := true, tickEnable := true, phase := .active, oscFreq := (applyPlan u).oscFreq,
        oscPlan := (applyPlan u).oscPlan, r0 := (applyResult u).status, r1 := (applyResult u).freq,
        lastErr := reportWord (if (applyResult u).status = 2 then .resourceBusy else .done) } := by
  simp only [beginSteps, startEngine, finish, initialExchange, allocateBuffers, allocFrame, setFb, applyPlan, applyResult,
    oscKept, oscBusy, oscRefs, lineWidth, Bool.false_eq_true, if_false, if_true]
  rfl

/-- TEARDOWN of a configured engine in one record (R261). -/
theorem teardownSteps_eq (s : State) :
    teardownSteps s = { s with
      tickEnable := false, outEnable := false, oscHeld := false,
      oscFreq := if s.oscHeld = true ∧ s.oscExtRefs = 0 then 0 else s.oscFreq,
      sbValid := false, sb0 := [], sb1 := [], fbValid := false, fb0 := [], fb1 := [], phase := .unconfigured,
      profileValid := false, std := 0, spcc := 0, prof := Profile.zero, plan := Plan.zero, ready := false,
      wakePending := false, lastErr := 0 } := by
  simp only [teardownSteps, dropReference, discardConfiguration, finish, reportWord]
  rfl

end Sys2Proof.Machine
end

