-- ==== Sys2Proof/Laws/PerInstr.lean ====
section
/-!
SUPPORT. Statements made per instruction. Family `TableWord`: the written form of a well-formed instruction matches its
row of `spec/opcode_table.json`, that is, it agrees with the row's match under the row's mask.
-/

namespace Sys2Proof.Laws.TableWord

open Sys2Proof

/-- A command word agrees with a row's `match` under its `mask`. -/
def commandRow (rowMask rowMatch : Word) (e : Encoded) : Prop := ∃ w, e = .command w ∧ w &&& rowMask = rowMatch

/-- A micro-operation code agrees with a row's `match` under its `mask`. -/
def microRow (rowMask rowMatch : Byte) (e : Encoded) : Prop := ∃ c, e = .micro c ∧ c &&& rowMask = rowMatch

/-- The `mask` and `match` of the table's row of each instruction, as the table spells them. -/
def inRow : Instr → Encoded → Prop
  | .nop => commandRow 0xFFFFFFFF 0x00000000
  | .init _ _ => commandRow 0xFFFF0000 0x01000000
  | .beginEngine => commandRow 0xFFFFFFFF 0x02000000
  | .teardown => commandRow 0xFFFFFFFF 0x03000000
  | .getwb => commandRow 0xFFFFFFFF 0x10000000
  | .fbwr _ _ => commandRow 0xFF000000 0x11000000
  | .commit => commandRow 0xFFFFFFFF 0x12000000
  | .getfc => commandRow 0xFFFFFFFF 0x13000000
  | .getsc => commandRow 0xFFFFFFFF 0x14000000
  | .csCoarse => commandRow 0xFFFFFFFF 0x20000000
  | .csFine => commandRow 0xFFFFFFFF 0x21000000
  | .lineActive => microRow 0xFF 0x80
  | .lineBlank => microRow 0xFF 0x81
  | .lineVsync => microRow 0xFF 0x82
  | .linePalsync => microRow 0xFF 0x83
  | .peEncN3 => microRow 0xFF 0x88
  | .peEncN4 => microRow 0xFF 0x89
  | .peEncP4 => microRow 0xFF 0x8A
  | .seqAdvance => microRow 0xFF 0x90
  | .fbAlloc => microRow 0xFF 0xA0
  | .csApply => microRow 0xFF 0xA1
  | .csSynth => microRow 0xFF 0xA2

/-- The family's statement. -/
def Statement (i : Instr) : Prop := i.wellFormed = true → inRow i (encode i)

theorem nop : Statement .nop := fun _ => ⟨_, rfl, by decide⟩
theorem init (std spcc : Nat) : Statement (.init std spcc) := fun _ => ⟨_, rfl, by
  have h : (0xFFFF0000#32 : Word) = 0xFF#8 ++ 0xFF#8 ++ 0#8 ++ 0#8 := rfl
  change wordI std spcc &&& 0xFFFF0000#32 = _
  rw [wordI, h, BitVec.and_append, BitVec.and_append, BitVec.and_append, BitVec.and_zero,
    BitVec.and_zero]
  rfl⟩
theorem beginEngine : Statement .beginEngine := fun _ => ⟨_, rfl, by decide⟩
theorem teardown : Statement .teardown := fun _ => ⟨_, rfl, by decide⟩
theorem getwb : Statement .getwb := fun _ => ⟨_, rfl, by decide⟩
theorem fbwr (row col : Nat) : Statement (.fbwr row col) := fun _ => ⟨_, rfl, by
  have h : (0xFF000000#32 : Word) = 0xFF#8 ++ 0#12 ++ 0#12 := rfl
  change wordP row col &&& 0xFF000000#32 = _
  rw [wordP, h, BitVec.and_append, BitVec.and_append, BitVec.and_zero, BitVec.and_zero]
  rfl⟩
theorem commit : Statement .commit := fun _ => ⟨_, rfl, by decide⟩
theorem getfc : Statement .getfc := fun _ => ⟨_, rfl, by decide⟩
theorem getsc : Statement .getsc := fun _ => ⟨_, rfl, by decide⟩
theorem csCoarse : Statement .csCoarse := fun _ => ⟨_, rfl, by decide⟩
theorem csFine : Statement .csFine := fun _ => ⟨_, rfl, by decide⟩
theorem lineActive : Statement .lineActive := fun _ => ⟨_, rfl, by decide⟩
theorem lineBlank : Statement .lineBlank := fun _ => ⟨_, rfl, by decide⟩
theorem lineVsync : Statement .lineVsync := fun _ => ⟨_, rfl, by decide⟩
theorem linePalsync : Statement .linePalsync := fun _ => ⟨_, rfl, by decide⟩
theorem peEncN3 : Statement .peEncN3 := fun _ => ⟨_, rfl, by decide⟩
theorem peEncN4 : Statement .peEncN4 := fun _ => ⟨_, rfl, by decide⟩
theorem peEncP4 : Statement .peEncP4 := fun _ => ⟨_, rfl, by decide⟩
theorem seqAdvance : Statement .seqAdvance := fun _ => ⟨_, rfl, by decide⟩
theorem fbAlloc : Statement .fbAlloc := fun _ => ⟨_, rfl, by decide⟩
theorem csApply : Statement .csApply := fun _ => ⟨_, rfl, by decide⟩
theorem csSynth : Statement .csSynth := fun _ => ⟨_, rfl, by decide⟩

end Sys2Proof.Laws.TableWord
end

