-- ==== Sys2Proof/Tests/Slice0.lean ====
section
/-!
SUPPORT. Tests, their expected results written out from `spec/` (the vectors of `spec/95_test_vectors.md` unless another
rule is named), and for each statement with hypotheses a concrete state and operands that meet all of them.
-/

namespace Sys2Proof.Tests

open Sys2Proof Sys2Proof.Machine

/-- The next state of a result, if it is one. -/
def nextOf : Result → Option State
  | .next s => some s
  | .fault _ => none
  | .refused _ => none

/-- One component of the next state of a result. -/
def after {α : Type} (o : Result) (f : State → α) : Option α := (nextOf o).map f

/-! ### States -/

/-- After `INIT NTSC, 4` from reset (R251, R141); `R0..R4` left 0. -/
def configured4 : State :=
  { State.reset with
    std := 0, spcc := 4, profileValid := true, prof := profileOf .ntsc4, phase := .configured,
    plan := ⟨true, 14318182, 11, 9, 27, 88, 14318181⟩ }

/-- After `BEGIN` too (R256): ACTIVE, NTSC4, line 0, buffer 0 in front. -/
def active4 : State :=
  { configured4 with
    fbValid := true, sb0 := List.replicate 912 none, sb1 := List.replicate 912 none, sbValid := true,
    oscHeld := true, outEnable := true, tickEnable := true, phase := .active, oscFreq := 14318181 }

/-- The same in NTSC3. -/
def active3 : State :=
  { active4 with
    spcc := 3, prof := profileOf .ntsc3, plan := ⟨true, 10738636, 15, 9, 4703, 36788, 10738636⟩,
    oscFreq := 10738636, sb0 := List.replicate 684 none, sb1 := List.replicate 684 none }

/-- The same in PAL4. -/
def activePal : State :=
  { active4 with
    std := 1, spcc := 4, prof := profileOf .pal4, plan := ⟨true, 17734475, 8, 8, 29676, 34219, 17734474⟩,
    oscFreq := 17734474, sb0 := List.replicate 1136 none, sb1 := List.replicate 1136 none }

/-- A halted block (R281). -/
def halted4 : State := { active4 with fault := 0x00001021, phase := .halted, tickEnable := false }

/-- `s` with one move to come. -/
def withMove (s : State) (m : Move) : State := { s with sched := [m] }

/-- `s` with the producer about to write `w` to `CMD`. -/
def withCommand (s : State) (w : Word) : State := { s with prog := [.write 0 w], sched := [.producer] }

/-- `s` with a micro-operation's operands in place. -/
def withOps (s : State) (u : MicroOperands) : State := { s with uop := u }

theorem synth4 : (⟨true, 14318182, 11, 9, 27, 88, 14318181⟩ : Plan) = synthPlan (targetHz .ntsc4) :=
  synthPlan_ntsc4.symm

theorem configured4_inv : configured4.Inv where
  latched _ := ⟨.ntsc4, rfl, rfl, synth4⟩
  unlatched h := absurd h (by decide)
  unconfiguredPhase h := absurd h (by decide)
  configuredPhase := by decide
  activePhase h := absurd h (by decide)
  tickEnabled := by decide
  fbWithSb := rfl
  outWithSb := rfl
  heldWithSb := rfl
  startedConfig h := absurd h (by decide)
  counter h := absurd h (by decide)
  sbSize h := absurd h (by decide)
  sbNone := by decide
  fbNone := by decide
  fbWf := by decide
  fbRange := ⟨by simp [memInRange, configured4, State.reset], by simp [memInRange, configured4, State.reset]⟩
  waiting := rfl
  notBoth := rfl
  waitingActive h := absurd h (by decide)
  haltedFault := by decide
  faultCode := by decide
  faultHigh := rfl
  lastErrCode := by decide

/-- The invariant of a started engine with its line counter, handshake and agents' fields anywhere they may be. -/
theorem active4_inv_at (lc : BitVec 16) (ready wake : Bool) (prog : List ProdOp) (sched : List Move)
    (h : lc.toNat < 262) (hn : (ready && wake) = false) :
    ({ active4 with
      lineCounter := lc, ready := ready, wakePending := wake, prodWaiting := ready || wake, prog := prog,
      sched := sched } : State).Inv where
  latched _ := ⟨.ntsc4, rfl, rfl, synth4⟩
  unlatched h := absurd h nofun
  unconfiguredPhase h := absurd h nofun
  configuredPhase h := absurd h nofun
  activePhase _ := rfl
  tickEnabled := rfl
  fbWithSb := rfl
  outWithSb := rfl
  heldWithSb := rfl
  startedConfig _ := ⟨rfl, rfl⟩
  counter _ := h
  sbSize _ := ⟨List.length_replicate, List.length_replicate⟩
  sbNone h := absurd h nofun
  fbNone h := absurd h nofun
  fbWf := ⟨rfl, rfl⟩
  fbRange := ⟨memInRange_nil _, memInRange_nil _⟩
  waiting := rfl
  notBoth := hn
  waitingActive _ := rfl
  haltedFault := ⟨nofun, fun h => absurd rfl h⟩
  faultCode := .inl rfl
  faultHigh := by
    change (active4.fault).extractLsb' 16 16 = 0#16
    decide
  lastErrCode := .inl rfl

theorem active4_inv : active4.Inv := active4_inv_at 0 false false [] [] (by decide) rfl

/-! ### Well-formedness (R102, R103): each check refuses an ill-formed term -/

theorem test_wf_init_std : (Instr.init 256 3).wellFormed = false := by decide
theorem test_wf_init_spcc : (Instr.init 0 256).wellFormed = false := by decide
theorem test_wf_fbwr_row : (Instr.fbwr 4096 0).wellFormed = false := by decide
theorem test_wf_fbwr_col : (Instr.fbwr 0 4096).wellFormed = false := by decide
theorem test_wf_largest : (Instr.init 255 255).wellFormed = true ∧ (Instr.fbwr 4095 4095).wellFormed = true := by decide

/-! ### Decoding: every constructor, by words written out from R101 to R107 -/

theorem test_decode_commands :
    decodeTableWord 32 0x00000000 = some .nop ∧ decodeTableWord 32 0x02000000 = some .beginEngine ∧
    decodeTableWord 32 0x03000000 = some .teardown ∧ decodeTableWord 32 0x10000000 = some .getwb ∧
    decodeTableWord 32 0x12000000 = some .commit ∧ decodeTableWord 32 0x13000000 = some .getfc ∧
    decodeTableWord 32 0x14000000 = some .getsc ∧ decodeTableWord 32 0x20000000 = some .csCoarse ∧
    decodeTableWord 32 0x21000000 = some .csFine := by decide

theorem test_decode_init :
    decodeTableWord 32 0x01000300 = some (.init 0 3) ∧ decodeTableWord 32 0x01000400 = some (.init 0 4) ∧
    decodeTableWord 32 0x01000401 = some (.init 1 4) ∧ decodeTableWord 32 0x0100FF02 = some (.init 2 255) := by decide

theorem test_decode_fbwr :
    decodeTableWord 32 0x11000000 = some (.fbwr 0 0) ∧ decodeTableWord 32 0x11002005 = some (.fbwr 2 5) ∧
    decodeTableWord 32 0x110EF0FF = some (.fbwr 239 255) ∧ decodeTableWord 32 0x11FFFFFF = some (.fbwr 4095 4095) := by
  decide

theorem test_decode_micro :
    decodeTableWord 8 0x80 = some .lineActive ∧ decodeTableWord 8 0x81 = some .lineBlank ∧
    decodeTableWord 8 0x82 = some .lineVsync ∧ decodeTableWord 8 0x83 = some .linePalsync ∧
    decodeTableWord 8 0x88 = some .peEncN3 ∧ decodeTableWord 8 0x89 = some .peEncN4 ∧
    decodeTableWord 8 0x8A = some .peEncP4 ∧ decodeTableWord 8 0x90 = some .seqAdvance ∧
    decodeTableWord 8 0xA0 = some .fbAlloc ∧ decodeTableWord 8 0xA1 = some .csApply ∧
    decodeTableWord 8 0xA2 = some .csSynth := by decide

/-- Words and codes that are nothing: an unknown opcode, an immediate on a format `Z` word, `INIT` with bits 23:16 set, a
micro-operation code in a command word (R108), codes outside R107, and a width no row has. -/
theorem test_decode_illegal :
    decodeTableWord 32 0x05000000 = none ∧ decodeTableWord 32 0x02000001 = none ∧
    decodeTableWord 32 0x01010400 = none ∧ decodeTableWord 32 0x80000000 = none ∧ decodeTableWord 8 0x84 = none ∧
    decodeTableWord 8 0x00 = none ∧ decodeTableWord 16 0 = none := by decide

theorem test_encode_words :
    encode (.init 1 4) = .command 0x01000401 ∧ encode (.fbwr 239 255) = .command 0x110EF0FF ∧
    encode .commit = .command 0x12000000 ∧ encode .peEncP4 = .micro 0x8A := by decide

/-- The faults of the illegal words of 2.1. -/
theorem test_illegal_faults :
    after (issueCommand 0x05000000 .reset) (·.fault) = some 0x00000056 ∧
    after (issueCommand 0x02000001 .reset) (·.fault) = some 0x00000026 ∧
    after (issueCommand 0x01010400 .reset) (·.fault) = some 0x00000016 ∧
    after (issueCommand 0x80000000 .reset) (·.fault) = some 0x00000806 := by decide

/-! ### A placed word is the next step -/

theorem test_placed_commands :
    after (step (State.reset.withFetchWord 32 0x02000000)) (fun t => (t.fault, t.phase)) =
      some (0x00005021, Phase.halted) ∧
    after (step (active4.withFetchWord 32 0x10000000)) (·.r0) = some 1 := by decide

theorem test_placed_micro : after (step (State.reset.withFetchWord 8 0x90)) (·.lineCounter) = some 1 := by decide

/-! ### Registers, `STATUS`, reset -/

/-- 2.4, 2.5, P1: `STATUS` of each of these states. -/
theorem test_status :
    statusWord .reset = 0 ∧ statusWord configured4 = 0x00028009 ∧ statusWord active4 = 0x00038F0A ∧
    statusWord active3 = 0x00036F0A ∧ statusWord activePal = 0x00039F0A ∧
    statusWord { active4 with ready := true } = 0x00038F1A ∧
    statusWord { active4 with frontSel := true, wakePending := true } = 0x00038FAA := by decide

/-- R27: register numbers. -/
theorem test_registers :
    after (step { State.reset with prog := [.write 5 7], sched := [.producer] }) (·.a1) = some 7 ∧
    after (step { State.reset with r4 := 9, prog := [.read 13], sched := [.producer] }) (·.rdata) = some 9 ∧
    after (step { State.reset with prog := [.read 14], rdata := 9, sched := [.producer] }) (·.rdata) = some 0 := by
  decide

/-- 2.10: `ACTIVE`, then `RESET`; and another holder's reference is left alone (R303). -/
theorem test_reset_move :
    after (step (withMove active4 .reset)) (fun t => (statusWord t, t.oscFreq, t.r0)) = some (0, 0, 0) ∧
    after (step (withMove { active4 with oscExtRefs := 1 } .reset)) (fun t => (t.oscFreq, t.oscExtRefs)) =
      some (14318181, 1) := by decide

/-- R321: the producer's program starts over. -/
theorem test_reset_restarts_program :
    after (step { active4 with program := [.read 1, .read 2], prog := [.read 2], prodWaiting := true, sched := [.reset] })
      (fun t => (t.prog, t.prodWaiting)) = some ([.read 1, .read 2], false) := by decide

theorem test_reset_memory_wf : Memory.wf State.reset.fb0 ∧ Memory.wf State.reset.fb1 := by decide

/-! ### Host commands -/

theorem test_nop : after (exec .nop { State.reset with lastErr := 3 }) (·.lastErr) = some 0 := by decide

/-- 2.4: `INIT NTSC, 4` and `INIT PAL, 4` from reset. -/
theorem test_init :
    after (exec (.init 0 4) .reset) (fun t => ([t.r0, t.r1, t.r2, t.r3, t.r4], statusWord t)) =
      some ([14318181, 11, 9, 27, 88], 0x00028009) ∧
    after (exec (.init 1 4) .reset) (fun t => ([t.r0, t.r1, t.r2, t.r3, t.r4], statusWord t)) =
      some ([17734474, 8, 8, 29676, 34219], 0x00029009) := by
  have h4 : execInit 0 4 .reset = .next (configure profileOf .ntsc4 0 4 .reset) := rfl
  have hp : execInit 1 4 .reset = .next (configure profileOf .pal4 1 4 .reset) := rfl
  constructor
  · simp only [exec, h4, configure, targetHz, synthPlan_ntsc4]
    decide
  · simp only [exec, hp, configure, targetHz, synthPlan_pal4]
    decide

/-- 2.4, 2.10: the INIT faults. -/
theorem test_init_faults :
    after (exec (.init 1 3) .reset) (fun t => (t.fault, t.phase)) = some (0x00004011, Phase.halted) ∧
    after (exec (.init 2 3) .reset) (·.fault) = some 0x00004011 ∧
    after (exec (.init 0 2) .reset) (·.fault) = some 0x00004011 ∧
    after (exec (.init 1 4) active4) (fun t => (t.fault, t.outEnable, t.tickEnable)) = some (0x00006011, true, false) := by
  decide

/-- `BEGIN` with the oscillator at `f`, `e` references held by others: `R0`, `R1`, `LASTERR`, and the oscillator after. -/
def runBegin (p : Nat × Nat) : Option (List Nat) :=
  after (exec .beginEngine { configured4 with oscFreq := BitVec.ofNat 32 p.1, oscExtRefs := p.2 })
    fun t => [t.r0.toNat, t.r1.toNat, t.lastErr.toNat, t.oscFreq.toNat, t.oscExtRefs, t.oscHeld.toNat]

/-- 2.5: the five launches of the oscillator, before BEGIN. -/
theorem test_begin :
    [(0, 0), (20000000, 0), (14318181, 1), (0, 2), (20000000, 1)].map runBegin =
      [some [1, 14318181, 0, 14318181, 0, 1], some [1, 14318181, 0, 14318181, 0, 1],
        some [1, 14318181, 0, 14318181, 1, 1], some [1, 14318181, 0, 14318181, 2, 1],
        some [2, 20000000, 2, 20000000, 1, 1]] := by decide

/-- 2.10, P1: what BEGIN refuses, and `STATUS` after it. -/
theorem test_begin_status :
    after (exec .beginEngine configured4) statusWord = some 0x00038F0A ∧
    after (exec .beginEngine .reset) (·.fault) = some 0x00005021 ∧
    after (exec .beginEngine active4) (·.fault) = some 0x00001021 := by decide

/-- P5, 2.4: TEARDOWN keeps the counters and gives up the oscillator. -/
theorem test_teardown :
    after (exec .teardown { active4 with frontSel := true, frameCount := 5, swapCount := 3 })
      (fun t => (statusWord t, t.frameCount, t.swapCount, t.oscFreq)) = some (0x00000020, 5, 3, 0) ∧
    after (exec .teardown { active4 with oscExtRefs := 1 }) (·.oscFreq) = some 14318181 := by decide

theorem test_getwb :
    after (exec .getwb active4) (·.r0) = some 1 ∧ after (exec .getwb { active4 with frontSel := true }) (·.r0) = some 0 ∧
    after (exec .getwb .reset) (·.fault) = some 0x00003101 := by decide

/-- 2.9: the last legal element, from `A0 = 0x1FF`, `A1 = 3`. -/
theorem test_fbwr :
    after (exec (.fbwr 239 255) { active4 with a0 := 0x1FF, a1 := 3 })
      (fun t => (fbRead t true 239 255, fbRead t false 239 255, t.lastErr)) = some (some 0xFF, none, 0) := by decide

theorem test_fbwr_faults :
    after (exec (.fbwr 0 0) active4) (·.fault) = some 0x00000114 ∧
    after (exec (.fbwr 240 0) { active4 with a1 := 1 }) (·.fault) = some 0x00000115 ∧
    after (exec (.fbwr 0 256) { active4 with a1 := 1 }) (·.fault) = some 0x00000115 ∧
    after (exec (.fbwr 240 0) active4) (·.fault) = some 0x00000114 := by decide

theorem test_commit :
    after (exec .commit { active4 with lineCounter := 10 }) statusWord = some 0x00038F1A ∧
    after (exec .commit configured4) (·.fault) = some 0x00003121 := by decide

/-- P1: the wake completes the commit. -/
theorem test_commit_completes :
    after (step (withMove { active4 with frontSel := true, wakePending := true, prodWaiting := true } .producer))
      statusWord = some 0x00038F2A := by decide

theorem test_getfc : after (exec .getfc { State.reset with frameCount := 5 }) (·.r0) = some 5 := by decide
theorem test_getsc : after (exec .getsc { State.reset with swapCount := 3 }) (·.r0) = some 3 := by decide

/-- P3: in HALTED a command is ignored. -/
theorem test_halted : after (exec .getsc { halted4 with swapCount := 1 }) (fun t => (t.r0, t.fault)) =
    some (0, 0x00001021) := by decide

/-! ### The clock synthesizer -/

/-- `CS.COARSE` on a target: `R0`, `R1`, `R2`, `LASTERR`. -/
def runCoarse (t : Nat) : Option (List Nat) :=
  after (exec .csCoarse { State.reset with a0 := BitVec.ofNat 32 t })
    fun u => [u.r0.toNat, u.r1.toNat, u.r2.toNat, u.lastErr.toNat]

/-- 2.2, K1 to K11: the targets that fail and those that succeed. -/
theorem test_csCoarse :
    [5303031, 10738636, 14318182, 17734475, 83333333, 87500000, 125000000].map runCoarse =
      [some [1, 31, 350000046, 0], some [1, 15, 365113624, 0], some [1, 11, 372272732, 0], some [1, 8, 354689500, 0],
        some [1, 1, 499999998, 0], some [1, 0, 350000000, 0], some [1, 0, 500000000, 0]] := by decide

theorem test_csCoarse_fails :
    [0, 5303030, 83333334, 87499999, 125000001].map runCoarse = List.replicate 5 (some [0, 0, 0, 3]) := by decide

/-- `CS.FINE` on `A0..A4`: `R0..R3`, `LASTERR`. -/
def runFine (x : List Nat) : Option (List Nat) :=
  let w := fun i => BitVec.ofNat 32 (x[i]?.getD 0)
  after (exec .csFine { State.reset with a0 := w 0, a1 := w 1, a2 := w 2, a3 := w 3, a4 := w 4 })
    fun u => [u.r0.toNat, u.r1.toNat, u.r2.toNat, u.r3.toNat, u.lastErr.toNat]

/-- 2.3, F2 to F6 and F14, F15: ties, halves, the carry on both sides of its boundary and at equality. -/
theorem test_csFine :
    [[100, 10, 64, 1, 256], [105, 10, 64, 1, 256], [1999, 1000, 64, 1, 256], [1992, 1000, 64, 1, 256],
      [1993, 1000, 64, 1, 256], [10, 4, 3, 1, 10], [11, 4, 3, 1, 10]].map runFine =
    [some [10, 10, 0, 2, 0], some [10, 10, 1, 2, 0], some [999, 2, 0, 2, 0], some [996, 1, 2, 2, 0],
      some [996, 2, 0, 2, 0], some [4, 2, 1, 2, 0], some [3, 2, 2, 2, 0]] := by decide +kernel

/-- 2.3, F7 to F13, F16, F17: the range, the failures and two searches of many candidates. -/
theorem test_csFine_range :
    [[5, 10, 64, 0, 256], [1000, 3, 4, 1, 400], [1000, 3, 4, 1, 333], [1000, 3, 4, 1, 334], [7, 2, 64, 1, 10],
      [40000000, 14318182, 64, 1, 256], [160000000, 14318182, 64, 1, 256], [100, 0, 64, 1, 256],
      [100, 10, 2, 1, 256]].map runFine =
    [some [0, 0, 0, 0, 3], some [3, 333, 1, 3, 0], some [0, 0, 0, 0, 3], some [3, 333, 1, 3, 0], some [2, 3, 1, 2, 0],
      some [14318181, 2, 50, 63, 0], some [14318181, 11, 11, 63, 0], some [0, 0, 0, 0, 3], some [0, 0, 0, 0, 3]] := by
  decide +kernel

/-- R140: a target no divider reaches leaves an invalid plan with the target kept. -/
theorem test_csSynth :
    after (exec .csSynth (withOps .reset { MicroOperands.zero with target := 83333334 })) (·.plan) =
      some ⟨false, 83333334, 0, 0, 0, 0, 0⟩ := by decide

/-- 2.5: CS.APPLY configures an unconfigured resource. -/
theorem test_csApply :
    after (exec .csApply configured4) (fun t => (t.oscFreq, t.oscPlan, t.uopResult)) =
      some (14318181, ⟨11, 9, 27, 88⟩, ⟨1, 14318181⟩) ∧
    after (exec .csApply { configured4 with oscFreq := 20000000, oscExtRefs := 2 }) (·.uopResult) =
      some ⟨2, 20000000⟩ := by decide

/-- P4: another consumer acquires, configures and releases. -/
theorem test_ext_moves :
    after (step (withMove .reset .extAcq)) (·.oscExtRefs) = some 1 ∧
    after (step (withMove { State.reset with oscExtRefs := 1 } (.extCfg 20000000))) (·.oscFreq) = some 20000000 ∧
    after (step (withMove { State.reset with oscExtRefs := 1, oscFreq := 20000000 } .extRel))
      (fun t => (t.oscExtRefs, t.oscFreq)) = some (0, 0) := by decide

/-! ### The pixel encoder -/

/-- `TESTPAL[0]` of `spec/95_test_vectors.md`: phase `k` is `(i + 64·k) mod 256`. -/
def testPal0 (i : Byte) : BitVec 32 := i ++ (i + 64) ++ (i + 128) ++ (i + 192)
/-- `TESTPAL[1]`: phase `k` is `(i + 64·(3−k)) mod 256`. -/
def testPal1 (i : Byte) : BitVec 32 := (i + 192) ++ (i + 128) ++ (i + 64) ++ i

theorem test_testpal : testPal0 1 = 0x014181C1 ∧ testPal0 255 = 0xFF3F7FBF ∧ testPal1 0 = 0xC0804000 := by decide

/-- A frame buffer whose row 0 is row A of 2.7. -/
def rowA : Memory := (List.range 256).map fun c => (c, BitVec.ofNat 8 c)
/-- A frame buffer whose row 0 is row B. -/
def rowB : Memory := (List.range 256).map fun c => (c, BitVec.ofNat 8 (255 - c))

/-- The levels of samples `from ..` of an encoded row 0, the samples being the levels shifted left 8. -/
def levels (pal : Byte → BitVec 32) (fb : Memory) (spp spcc first count : Nat) : List (Option Nat) :=
  (List.range count).map fun q => (encodedSample pal fb 0 spp spcc (first + q)).map fun v => v.toNat / 256

/-- 2.7, E1: PE.ENC_N3 on row A. -/
theorem test_peEncN3 :
    levels testPal0 rowA 2 3 0 14 = [0x00, 0x40, 0x81, 0x01, 0x42, 0x82, 0x03, 0x43, 0x84, 0x04, 0x45, 0x85, 0x06,
      0x46].map some ∧
    levels testPal0 rowA 2 3 506 6 = [0x7D, 0xFD, 0x3E, 0x7E, 0xFF, 0x3F].map some := by decide +kernel

/-- 2.7, E4: PE.ENC_N4 on row B. -/
theorem test_peEncN4 :
    levels testPal0 rowB 3 4 0 14 = [0xFF, 0x3F, 0x7F, 0xBE, 0xFE, 0x3E, 0x7D, 0xBD, 0xFD, 0x3C, 0x7C, 0xBC, 0xFB,
      0x3B].map some ∧
    levels testPal0 rowB 3 4 762 6 = [0x81, 0xC1, 0x01, 0x40, 0x80, 0xC0].map some := by decide +kernel

/-- 2.7, E6: PE.ENC_P4 on row B, parity 1. -/
theorem test_peEncP4 :
    levels testPal1 rowB 3 4 0 14 = [0xBF, 0x7F, 0x3F, 0xFE, 0xBE, 0x7E, 0x3D, 0xFD, 0xBD, 0x7C, 0x3C, 0xFC, 0xBB,
      0x7B].map some ∧
    levels testPal1 rowB 3 4 762 6 = [0x41, 0x01, 0xC1, 0x80, 0x40, 0x00].map some := by decide +kernel

/-! ### The line operations -/

/-- `SB[0]` of the next state at each of some positions. -/
def samplesAt (o : Result) (ps : List Nat) : Option (List (Option Sample)) :=
  after o fun t => ps.map fun p => (t.sb0[p]?).getD none

/-- R163, R168: which positions each encoder touches, and that an unwritten pixel is unspecified. -/
theorem test_encoder_positions :
    samplesAt (exec .peEncN3 { active3 with sb0 := List.replicate 684 (some 1) }) [113, 114, 625, 626] =
      some [some 1, none, none, some 1] ∧
    samplesAt (exec .peEncN4 { active4 with sb0 := List.replicate 912 (some 1) }) [143, 144, 911] =
      some [some 1, none, none] := by decide +kernel

/-- 2.6: LINE.ACTIVE in NTSC4. -/
theorem test_lineActive_ntsc4 :
    samplesAt (exec .lineActive active4) [0, 63, 64, 65, 66, 67, 68, 103, 104, 143, 144] =
      some [some 0, some 0, some 0x1400, some 0x1E00, some 0x1400, some 0x0A00, some 0x1400, some 0x0A00, some 0x1400,
        some 0x1400, none] := by decide +kernel

/-- 2.6: LINE.ACTIVE in PAL4 on an odd line. -/
theorem test_lineActive_pal4_odd :
    samplesAt (exec .lineActive (withOps activePal { MicroOperands.zero with parity := true }))
      [79, 80, 95, 96, 97, 98, 99, 139, 140, 271, 272, 1039, 1040, 1135] =
      some [some 0, some 0x1400, some 0x1400, some 0x0D00, some 0x0D00, some 0x1B00, some 0x1B00, some 0x1B00,
        some 0x1400, some 0x1400, none, none, some 0x1400, some 0x1400] := by decide +kernel

theorem test_lineBlank :
    samplesAt (exec .lineBlank active4) [0, 63, 64, 911] = some [some 0, some 0, some 0x1400, some 0x1400] ∧
    samplesAt (exec .lineBlank activePal) [79, 80, 1135] = some [some 0, some 0x1400, some 0x1400] := by decide +kernel

theorem test_lineVsync :
    samplesAt (exec .lineVsync active4) [0, 839, 840, 911] = some [some 0, some 0, some 0x1400, some 0x1400] ∧
    samplesAt (exec .lineVsync active3) [629, 630, 683] = some [some 0, some 0x1400, some 0x1400] := by decide +kernel

/-- 2.6: LINE.PALSYNC, entries 0 and 3. -/
theorem test_linePalsync :
    samplesAt (exec .linePalsync activePal) [0, 31, 32, 567, 568, 599, 600, 1135] =
      some [some 0, some 0, some 0x1400, some 0x1400, some 0, some 0, some 0x1400, some 0x1400] ∧
    samplesAt (exec .linePalsync (withOps activePal { MicroOperands.zero with t := 3 }))
      [0, 535, 536, 567, 568, 1103, 1104] =
      some [some 0, some 0, some 0x1400, some 0x1400, some 0, some 0, some 0x1400] := by decide +kernel

/-- 2.6: entry 2 (t = 5): the two halves differ. -/
theorem test_linePalsync_mixed :
    samplesAt (exec .linePalsync (withOps activePal { MicroOperands.zero with t := 5 })) [535, 536, 568, 599, 600] =
      some [some 0, some 0x1400, some 0, some 0, some 0x1400] := by decide +kernel

/-- S6: the boundary rows of both standards. -/
theorem test_lineProgram :
    [0, 31, 32, 239, 240, 254, 261].map (lineProgram (profileOf .ntsc4)) =
      [.active 0 false, .active 31 false, .active 32 false, .active 239 false, .blank, .blank, .blank] ∧
    [0, 31, 32, 239, 240, 304, 311].map (lineProgram (profileOf .pal4)) =
      [.blank, .blank, .active 0 false, .active 207 true, .active 208 false, .palsync 0, .palsync 7] ∧
    [244, 245, 247, 248].map (lineProgram (profileOf .ntsc3)) = [.blank, .vsync, .vsync, .blank] := by decide

/-! ### The sequencer -/

/-- 2.8, one row: line counter, total lines, `ready`, `frontSel`, `frameCount`, `swapCount`, `wakePending` before; line
counter, `ready`, `frontSel`, `frameCount`, `swapCount`, `wakePending` after. -/
def runAdvance (x : List Nat) : Option (List Nat) :=
  let v := fun i => x[i]?.getD 0
  after (exec .seqAdvance
    { State.reset with
      prof := { Profile.zero with totalLines := BitVec.ofNat 16 (v 1) }, lineCounter := BitVec.ofNat 16 (v 0),
      ready := v 2 == 1, frontSel := v 3 == 1, frameCount := BitVec.ofNat 32 (v 4), swapCount := BitVec.ofNat 32 (v 5),
      wakePending := v 6 == 1 })
    fun t => [t.lineCounter.toNat, t.ready.toNat, t.frontSel.toNat, t.frameCount.toNat, t.swapCount.toNat,
      t.wakePending.toNat]

theorem test_seqAdvance :
    [[0, 262, 0, 0, 0, 0, 0], [260, 262, 1, 0, 0, 0, 0], [261, 262, 0, 0, 7, 3, 0], [261, 262, 1, 0, 7, 3, 0],
      [311, 312, 1, 1, 4294967295, 4294967295, 1]].map runAdvance =
    [some [1, 0, 0, 0, 0, 0], some [261, 1, 0, 0, 0, 0], some [0, 0, 0, 8, 3, 0], some [0, 0, 1, 8, 4, 1],
      some [0, 0, 0, 0, 0, 1]] := by decide

theorem test_fbAlloc :
    after (exec .fbAlloc { withOps active4 { MicroOperands.zero with h := true } with fb0 := [(0, 1)], fb1 := [(0, 2)] })
      (fun t => (t.fb0, t.fb1)) = some ([(0, 1)], []) := by decide

/-- R181: one TICK of the PAL PreRender part streams `SB[0]`, refills it with a blank line and moves on; a disabled event
is dropped. -/
theorem test_tick :
    after (step (withMove activePal .tick)) (fun t => [t.out.length, t.fillSel.toNat, t.lineCounter.toNat]) =
      some [1, 1, 1] ∧
    samplesAt (step (withMove activePal .tick)) [79, 80] = some [some 0x0000, some 0x1400] ∧
    after (step (withMove halted4 .tick)) (·.lineCounter) = some 0 := by decide +kernel

/-! ### Witnesses: states and operands that meet the hypotheses of each statement, clause by clause -/

/-- A component read off the next state shows that there is one. -/
theorem next_of_after {α : Type} {o : Result} {f : State → α} {v : α} (h : after o f = some v) :
    ∃ t, o = .next t ∧ f t = v := by
  cases o with
  | next t => exact ⟨t, rfl, by simpa [after, nextOf] using h⟩
  | fault x => simp [after, nextOf] at h
  | refused x => simp [after, nextOf] at h

theorem test_witness_decodeOfEncode :
    (Instr.init 255 255).wellFormed = true ∧ (Instr.fbwr 4095 4095).wellFormed = true ∧ Instr.csSynth.wellFormed = true := by
  decide

theorem test_witness_encodeOfDecode :
    decode (.command 0x11FFFFFF) = .ok (.fbwr 4095 4095) ∧ decode (.micro 0xA2) = .ok .csSynth := ⟨rfl, rfl⟩

theorem test_witness_unmatchedWord :
    let s := withCommand .reset 0x01010400
    s.phase ≠ .halted ∧ s.prodWaiting = false ∧ s.sched = [.producer] ∧ s.prog = [.write 0 0x01010400] ∧
      ¬ matchesCommandRow 0x01010400 := by
  unfold matchesCommandRow
  decide

theorem test_witness_stepRuns_command :
    let s := withCommand active4 0x110EF0FF
    s.phase ≠ .halted ∧ s.prodWaiting = false ∧ s.sched = [.producer] ∧ s.prog = [.write 0 0x110EF0FF] ∧
      decodeCommand 0x110EF0FF = .ok (.fbwr 239 255) := ⟨by decide, rfl, rfl, rfl, rfl⟩

theorem test_witness_stepRuns_micro :
    (withMove halted4 (.micro 0x8A .zero)).sched = [.micro 0x8A .zero] ∧ decodeMicro 0x8A = .ok .peEncP4 :=
  ⟨rfl, rfl⟩

theorem test_witness_placedWord :
    decodeTableWord 32 0x01000401 = some (.init 1 4) ∧ decodeTableWord 8 0x80 = some .lineActive ∧
      State.reset.phase ≠ .halted := by decide

theorem test_witness_registerFile :
    (let s := { State.reset with prog := [.read 13], sched := [.producer] }
     s.prodWaiting = false ∧ s.sched = [.producer] ∧ s.prog = [.read 13]) ∧
    (∀ n ∈ [4, 5, 6, 7, 8, 1, 13, 14],
     let s := { State.reset with prog := [.write n 0xFFFFFFFF], sched := [.producer] }
     s.prodWaiting = false ∧ s.sched = [.producer] ∧ s.prog = [.write n 0xFFFFFFFF]) := by decide

theorem test_witness_resetMove : (withMove halted4 .reset).sched = [.reset] ∧ halted4.oscHeld = true := by decide

theorem test_witness_halted :
    halted4.phase = .halted ∧ isMicroOp .nop = false ∧ isMicroOp (.fbwr 0 0) = false := by decide

theorem test_witness_halted_move :
    let s := withCommand halted4 0x14000000
    s.phase = .halted ∧ s.specMove = true ∧ s.sched.head? ≠ some .reset ∧ ∃ t, step s = .next t ∧ t.prog = [] :=
  ⟨rfl, rfl, by decide, next_of_after (by decide)⟩

/-- A command that leaves the counters unstarted, and the `BEGIN` that starts them. -/
theorem test_witness_notCounting :
    (let s := withCommand configured4 0x13000000
     notCounting s ∧ s.specMove = true ∧ ¬ beginsNow s ∧ s.phase ≠ .halted ∧ ∃ t, step s = .next t ∧ t.r0 = 0) ∧
    (let s := withCommand configured4 0x02000000
     notCounting s ∧ s.specMove = true ∧ beginsNow s ∧ ∃ t, step s = .next t ∧ t.tickEnable = true) :=
  ⟨⟨⟨rfl, rfl, rfl⟩, rfl, fun h => absurd h.2.1 (by decide), nofun, next_of_after (by decide)⟩,
   ⟨⟨rfl, rfl, rfl⟩, rfl, ⟨rfl, rfl, rfl⟩, next_of_after (by decide)⟩⟩

theorem test_witness_outside_halted :
    State.reset.phase ≠ .halted ∧ configured4.phase ≠ .halted ∧ active4.phase ≠ .halted := by decide

theorem test_witness_phases :
    State.reset.phase = .unconfigured ∧ configured4.phase = .configured ∧ active4.phase = .active := by decide

theorem test_witness_fbwrStores :
    let s := { active4 with a1 := 1 }
    s.phase = .active ∧ s.fbValid = true ∧ s.a1.getLsbD 0 ≠ s.frontSel ∧ 239 < s.prof.activeLines.toNat ∧ 255 < 256 := by
  decide

theorem test_witness_fbwrChecks :
    active4.a1.getLsbD 0 = active4.frontSel ∧ ({ active4 with a1 := 1 } : State).a1.getLsbD 0 ≠ active4.frontSel ∧
      active4.prof.activeLines.toNat ≤ 240 ∧ 256 ≤ 256 := by decide

theorem test_witness_commitCompletes :
    let s := withMove { active4 with prodWaiting := true, ready := true } .producer
    let u := { s with ready := false, wakePending := true }
    s.prodWaiting = true ∧ s.sched = [.producer] ∧ s.wakePending = false ∧ u.prodWaiting = true ∧
      u.sched = [.producer] ∧ u.wakePending = true := by decide

/-- A table whose NTSC4 line is one sample too long for a transfer, and one whose longest line passes but is malformed. -/
def badTable (width : BitVec 16) (m : Mode) : Profile := { profileOf m with lineWidth := width }

theorem test_witness_initRefusal :
    ¬ ((1 : Nat) = 0 ∧ (3 : Nat) = 3) ∧ ¬ ((1 : Nat) = 0 ∧ (3 : Nat) = 4) ∧ ¬ ((1 : Nat) = 1 ∧ (3 : Nat) = 4) ∧
      modeOf 0 4 = some .ntsc4 ∧ 4092 < (badTable 2047 .ntsc4).lineWidth.toNat * 2 ∧
      (badTable 2046 .ntsc4).lineWidth.toNat * 2 ≤ 4092 ∧ wellFormedProfile (badTable 2046 .ntsc4) = false := by decide

theorem test_witness_begin :
    configured4.phase = .configured ∧ configured4.plan.valid = true ∧
      ({ configured4 with oscFreq := 14318181 } : State).oscFreq = configured4.plan.realFreq ∧
      configured4.oscFreq ≠ configured4.plan.realFreq ∧ configured4.oscFreq = 0 ∧
      (let s := { configured4 with oscFreq := 20000000 }
       s.oscFreq ≠ s.plan.realFreq ∧ s.oscExtRefs = 0) ∧
      (let s := { configured4 with oscFreq := 20000000, oscExtRefs := 1 }
       s.oscFreq ≠ s.plan.realFreq ∧ s.oscFreq ≠ 0 ∧ 0 < s.oscExtRefs) := by decide

theorem test_witness_beginRefusal :
    let s := { configured4 with plan := Plan.zero }
    s.phase = .configured ∧ s.plan.valid = false := by decide

theorem test_witness_coarse :
    (let t := 5303031
     t ≠ 0 ∧ 31 ≤ 31 ∧ 350000000 ≤ t * (2 * (31 + 2)) ∧ t * (2 * (31 + 2)) ≤ 500000000 ∧
      ∀ d' < 31, ¬ (350000000 ≤ t * (2 * (d' + 2)) ∧ t * (2 * (d' + 2)) ≤ 500000000)) ∧
    (∀ d ≤ 31, ¬ (350000000 ≤ 83333334 * (2 * (d + 2)) ∧ 83333334 * (2 * (d + 2)) ≤ 500000000)) := by decide

/-- F16, F17, F6 (carry, in range and out of it), F15 (equality: no carry), F9 (out of range). -/
theorem test_witness_fineRules :
    ((0 : Nat) = 0 ∨ 64 < 3) ∧ ((10 : Nat) = 0 ∨ 2 < 3) ∧
    (0 < 1000 ∧ 3 ≤ 64 ∧ (2 * (64 - 1) - 1) * 1000 < 2 * (64 - 1) * (1993 % 1000) ∧ 1 ≤ 1993 / 1000 + 1 ∧
      1993 / 1000 + 1 < 256 ∧ ¬ (1 ≤ 1993 / 1000 + 1 ∧ 1993 / 1000 + 1 < 2)) ∧
    (0 < 4 ∧ 3 ≤ 3 ∧ 2 * (3 - 1) * (11 % 4) = (2 * (3 - 1) - 1) * 4 ∧ 1 ≤ 11 / 4 ∧ 11 / 4 < 10 ∧ 11 / 4 ≠ 0) ∧
    ¬ (1 ≤ 1000 / 3 ∧ 1000 / 3 < 333) := by decide

theorem test_witness_fine : (fine 1993 1000 64 1 256).f ≠ 0 ∧ (fine 11 4 3 1 10).f ≠ 0 ∧ (fine 100 10 2 1 256).f = 0 := by
  decide +kernel

theorem test_witness_synth :
    coarse (withOps .reset .zero).uop.target.toNat = none ∧
    coarse (withOps .reset { MicroOperands.zero with target := 125000000 }).uop.target.toNat = some 0 := by decide

theorem test_witness_apply :
    active4.oscFreq = active4.plan.realFreq ∧
    (let s := { active4 with oscFreq := 20000000, oscExtRefs := 1 }
     s.oscFreq ≠ s.plan.realFreq ∧ s.oscFreq ≠ 0 ∧ 1 < s.oscExtRefs + (if s.oscHeld then 1 else 0)) ∧
    (let s := { active4 with oscFreq := 20000000 }
     s.oscFreq ≠ s.plan.realFreq ∧ s.oscExtRefs + (if s.oscHeld then 1 else 0) ≤ 1) ∧
    (configured4.oscFreq ≠ configured4.plan.realFreq ∧ configured4.oscFreq = 0) := by decide

theorem test_witness_appliedHolds :
    let s := withMove { active4 with oscExtRefs := 1 } .extRel
    s.phase = .active ∧ s.oscHeld = true ∧ s.plan.realFreq ≠ 0 ∧ s.oscFreq = s.plan.realFreq ∧ s.specMove = true ∧
      ∃ t, step s = .next t ∧ t.oscHeld = true :=
  ⟨rfl, rfl, by decide, rfl, rfl, next_of_after (by decide)⟩

theorem test_witness_appliedHolds_halted :
    let s := withMove { halted4 with oscExtRefs := 1 } (.extCfg 5)
    s.phase = .halted ∧ s.oscHeld = true ∧ s.plan.realFreq ≠ 0 ∧ s.oscFreq = s.plan.realFreq ∧ s.specMove = true ∧
      ∃ t, step s = .next t ∧ t.oscHeld = true :=
  ⟨rfl, rfl, by decide, rfl, rfl, next_of_after (by decide)⟩

theorem test_witness_referenceHeld : active4.Inv ∧ active4.oscHeld = true := ⟨active4_inv, rfl⟩

theorem test_witness_oscillator :
    (withMove .reset .extAcq).sched = [.extAcq] ∧ (withMove .reset .extRel).oscExtRefs = 0 ∧
    (let s := withMove { State.reset with oscExtRefs := 1 } .extRel
     s.sched = [.extRel] ∧ s.oscExtRefs = 1 ∧ s.oscHeld = false) ∧
    (let s := withMove { active4 with oscExtRefs := 1 } (.extCfg 5)
     s.sched = [.extCfg 5] ∧ s.oscFreq ≠ 0 ∧ s.oscExtRefs = 1 ∧ s.oscHeld = true) ∧
    (let s := withMove { State.reset with oscExtRefs := 2 } (.extCfg 5)
     0 < s.oscExtRefs ∧ (5 : Word) ≠ 0 ∧ s.oscFreq = 0) ∧
    (let s := withMove { State.reset with oscExtRefs := 1, oscFreq := 9 } (.extCfg 5)
     (5 : Word) ≠ 0 ∧ s.oscFreq ≠ 0 ∧ s.oscExtRefs = 1 ∧ s.oscHeld = false) := by decide

/-- The last row; the last sample of the NTSC4 line is the last picture sample. -/
theorem test_witness_encoders :
    let s := withOps active4 { MicroOperands.zero with row := 239, j := true, parity := true }
    s.fbValid = true ∧ s.uop.row < s.prof.activeLines.toNat ∧ s.sbValid = true ∧
      s.prof.activeStart.toNat + 512 ≤ (sbOf s s.uop.j).length ∧
      s.prof.activeStart.toNat + 768 = (sbOf s s.uop.j).length := by decide +kernel

/-- The hypotheses of LineActiveSamples that do not name the mode. -/
def lineActiveReady (s : State) (spp spcc : Nat) : Prop :=
  s.prof.spp.toNat = spp ∧ s.prof.spcc.toNat = spcc ∧ s.prof.hsync.toNat ≤ s.prof.burstStart.toNat ∧
  s.prof.burstStart.toNat + s.prof.burstWidth.toNat ≤ s.prof.activeStart.toNat ∧
  s.prof.activeStart.toNat + 256 * spp ≤ s.prof.lineWidth.toNat ∧ s.fbValid = true ∧
  s.uop.row < s.prof.activeLines.toNat ∧ s.sbValid = true ∧ (sbOf s s.uop.j).length = s.prof.lineWidth.toNat

theorem test_witness_lineActive :
    (stateMode active3 = some .ntsc3 ∧ active3.uop.parity = false ∧ lineActiveReady active3 2 3) ∧
    (stateMode active4 = some .ntsc4 ∧ active4.uop.parity = false ∧ lineActiveReady active4 3 4) ∧
    (let s := withOps activePal { MicroOperands.zero with row := 239, parity := true }
     stateMode s = some .pal4 ∧ s.uop.parity = true ∧ lineActiveReady s 3 4) := by
  unfold lineActiveReady
  decide +kernel

theorem test_witness_lineBlank :
    active4.sbValid = true ∧ (sbOf active4 active4.uop.j).length = active4.prof.lineWidth.toNat ∧
      active4.prof.hsync.toNat ≤ active4.prof.lineWidth.toNat ∧
      active4.prof.hsyncLong.toNat ≤ active4.prof.lineWidth.toNat := by decide +kernel

theorem test_witness_linePalsync :
    let s := withOps activePal { MicroOperands.zero with t := 7, j := true }
    s.uop.t < 8 ∧ s.sbValid = true ∧ (sbOf s s.uop.j).length = s.prof.lineWidth.toNat ∧
      s.prof.hsyncLong.toNat ≤ s.prof.lineWidth.toNat / 2 ∧ s.prof.hsyncShort.toNat ≤ s.prof.lineWidth.toNat / 2 := by
  decide +kernel

theorem test_witness_seqAdvance :
    active4.lineCounter.toNat + 1 ≠ active4.prof.totalLines.toNat ∧
    (let s := { active4 with lineCounter := 261 }
     s.lineCounter.toNat + 1 = s.prof.totalLines.toNat ∧ s.ready = false) ∧
    (let s := { active4 with lineCounter := 261, ready := true }
     s.lineCounter.toNat + 1 = s.prof.totalLines.toNat ∧ s.ready = true) := by decide

theorem test_witness_disabledEvent :
    (withMove halted4 .tick).tickEnable = false ∧ (withMove halted4 .tick).sched = [.tick] := by decide

/-- At the last line of the field, a commit waiting. -/
def lastLine (sched : List Move) : State :=
  { active4 with lineCounter := 261, ready := true, wakePending := false, prodWaiting := true, prog := [], sched := sched }

theorem lastLine_inv (sched : List Move) : (lastLine sched).Inv :=
  active4_inv_at 261 true false [] sched (by decide) rfl

theorem test_witness_tick : (lastLine [.tick]).Inv ∧ (lastLine [.tick]).tickEnable = true ∧ (lastLine [.tick]).sched = [.tick] :=
  ⟨lastLine_inv _, rfl, rfl⟩

theorem test_witness_threeTicks :
    (lastLine [.tick, .tick, .tick]).Inv ∧ (lastLine [.tick, .tick, .tick]).tickEnable = true ∧
      (lastLine [.tick, .tick, .tick]).sched = .tick :: .tick :: .tick :: [] := ⟨lastLine_inv _, rfl, rfl⟩

theorem test_witness_field :
    let s : State := { active4 with
      lineCounter := 0, ready := false, wakePending := false, prodWaiting := false || false, prog := [],
      sched := List.replicate 262 .tick }
    s.Inv ∧ s.tickEnable = true ∧ s.lineCounter = 0 ∧ s.sched = List.replicate s.prof.totalLines.toNat .tick ++ [] :=
  ⟨active4_inv_at 0 false false [] _ (by decide) rfl, rfl, rfl, (List.append_nil _).symm⟩

/-- COMMIT issued on the last line: one tick remains. -/
theorem test_witness_commitField :
    let s : State := { active4 with
      lineCounter := 261, ready := false, wakePending := false, prodWaiting := false || false,
      prog := [.write 0 0x12000000], sched := [.producer, .tick, .producer] }
    s.Inv ∧ s.phase = .active ∧ s.prodWaiting = false ∧ s.prog = [.write 0 0x12000000] ∧
      s.sched = .producer :: (List.replicate (s.prof.totalLines.toNat - s.lineCounter.toNat) .tick ++ [.producer]) :=
  ⟨active4_inv_at 261 false false _ _ (by decide) rfl, rfl, rfl, rfl, rfl⟩

theorem tick_at_lastLine : after (step (lastLine [.tick])) (fun t => (t.frontSel, t.ready)) = some (true, false) := by
  decide +kernel

theorem test_witness_swap :
    (lastLine [.tick]).specMove = true ∧ ∃ t, step (lastLine [.tick]) = .next t ∧ t.frontSel ≠ (lastLine [.tick]).frontSel := by
  obtain ⟨t, h1, h2⟩ := next_of_after tick_at_lastLine
  refine ⟨rfl, t, h1, ?_⟩
  rw [(Prod.mk.inj h2).1]
  decide

theorem test_witness_frameCount :
    (wrapTick (lastLine [.tick]) ∧ (lastLine [.tick]).specMove = true ∧ ∃ t, step (lastLine [.tick]) = .next t ∧
      (t.frontSel, t.ready) = (true, false)) ∧
    (let s := withMove { active4 with frameCount := 7 } .reset
     s.specMove = true ∧ ∃ t, step s = .next t ∧ startsOver s t ∧ t.frameCount ≠ s.frameCount) :=
  ⟨⟨⟨rfl, rfl, rfl⟩, rfl, next_of_after tick_at_lastLine⟩, rfl, _, rfl, .inl rfl, by decide⟩

theorem test_witness_tickRuns :
    holdsOperands (.active 239 true) true { MicroOperands.zero with row := 239, j := true, parity := true, t := 9 } ∧
    holdsOperands .blank true { MicroOperands.zero with j := true } ∧ holdsOperands .vsync false MicroOperands.zero ∧
    holdsOperands (.palsync 7) false { MicroOperands.zero with t := 7 } :=
  ⟨⟨rfl, rfl, rfl⟩, ⟨rfl, trivial⟩, ⟨rfl, trivial⟩, ⟨rfl, rfl⟩⟩

theorem test_witness_swap_begin :
    let s := withCommand { configured4 with frontSel := true } 0x02000000
    s.specMove = true ∧ ∃ t, step s = .next t ∧ t.frontSel = false :=
  ⟨rfl, next_of_after (by decide)⟩

theorem test_witness_ready :
    (let s := withCommand active4 0x12000000
     s.specMove = true ∧ s.ready = false ∧ ∃ t, step s = .next t ∧ t.ready = true) ∧
    (let s := withCommand { active4 with ready := true } 0x03000000
     s.specMove = true ∧ s.ready = true ∧ ∃ t, step s = .next t ∧ t.ready = false) :=
  ⟨⟨rfl, rfl, next_of_after (by decide)⟩, ⟨rfl, rfl, next_of_after (by decide)⟩⟩

theorem test_witness_producer :
    let s := withCommand { active4 with a1 := 1 } 0x110EF0FF
    s.sched.head? = some .producer ∧ s.phase = .active ∧ ∃ t, step s = .next t ∧ t.phase = .active :=
  ⟨rfl, rfl, next_of_after (by decide)⟩

theorem test_witness_backBuffer :
    let s := lastLine [.tick]
    let s' := { s with fb1 := [(0, 7)] }
    s.sched.head? = some .tick ∧ s.sameBut s' (!s.frontSel) ∧ s' ≠ s ∧ ∃ t, step s = .next t ∧ (t.frontSel, t.ready) = (true, false) :=
  ⟨rfl, rfl, fun h => absurd (congrArg State.fb1 h) (by decide), next_of_after tick_at_lastLine⟩

theorem test_witness_canonical :
    let s := withCommand { active4 with a1 := 1 } 0x110EF0FF
    Memory.wf s.fb0 ∧ Memory.wf s.fb1 ∧ ∃ t, step s = .next t ∧ t.fb1 = [(61439, 0)] :=
  ⟨rfl, rfl, next_of_after (by decide)⟩

theorem test_witness_invariantKept :
    (lastLine [.tick]).Inv ∧ (lastLine [.tick]).specMove = true ∧
      ∃ t, step (lastLine [.tick]) = .next t ∧ (t.frontSel, t.ready) = (true, false) :=
  ⟨lastLine_inv _, rfl, next_of_after tick_at_lastLine⟩

end Sys2Proof.Tests
end

section
/-!
PROOFS of the state family: `STATUS` (`spec/10_state.md` R24), and the setters and clearers of `ready` (R34).
-/

namespace Sys2Proof

/-! ### The word a decoded command was written as -/

/-- A word that decodes in format `Z` is the format's word of its own opcode, and has no other meaning (R101). -/
theorem decodeZ_eq_ok {i j : Instr} {w : Word} (h : decodeZ i w = .ok j) : i = j ∧ w = wordZ (opField w) := by
  unfold decodeZ at h
  split at h
  · rename_i him
    cases h
    exact ⟨rfl, by rw [wordZ, ← him, op_append_imm]⟩
  · cases h

/-- A command word that decodes is the encoding of what it decodes to (R100 to R104). -/
theorem encode_of_decodeCommand {w : Word} {i : Instr} (h : decodeCommand w = .ok i) : encode i = .command w := by
  have formatZ : ∀ {op : Byte} {j : Instr}, encode j = .command (wordZ op) → (opField w).toNat = op.toNat →
      decodeZ j w = .ok i → encode i = .command w := by
    intro op j he hop hd
    obtain ⟨rfl, hw⟩ := decodeZ_eq_ok hd
    rw [he, hw, BitVec.eq_of_toNat_eq hop]
  unfold decodeCommand at h
  split at h
  case h_2 hop =>
    unfold decodeI at h
    split at h
    · rename_i hres
      cases h
      have hw := init_append w
      rw [hres, BitVec.eq_of_toNat_eq (y := 0x01#8) hop] at hw
      simp only [encode, wordI, BitVec.ofNat_toNat, BitVec.setWidth_eq, hw]
    · cases h
  case h_6 hop =>
    cases h
    have hw := fbwr_append w
    rw [BitVec.eq_of_toNat_eq (y := 0x11#8) hop] at hw
    simp only [encode, wordP, BitVec.ofNat_toNat, BitVec.setWidth_eq, hw]
  case h_12 => cases h
  all_goals exact formatZ rfl ‹_› h

end Sys2Proof

namespace Sys2Proof.Machine

open Sys2Proof

/-! ### STATUS -/

/-- Settles O9: the fields wider than one bit are parts of the concatenation that `STATUS` is, and each flag is the one bit
that the fields below it leave. -/
theorem statusShowsEveryField : Obligations.StatusShowsEveryField := by
  refine ⟨by decide, fun s => ⟨?phase, ?_, ?_, ?_, ?_, ?_, ?_, ?_, ?_, ?_, ?std, ?spcc, ?_, ?_, ?zeros⟩⟩
  case phase =>
    rw [statusWord, BitVec.extractLsb'_append_eq_of_add_le (by decide)]
    cases s.phase <;> rfl
  case std =>
    rw [statusWord]
    iterate 10 rw [BitVec.extractLsb'_append_eq_of_le (by decide)]
    rw [BitVec.extractLsb'_append_eq_of_add_le (by decide), BitVec.extractLsb'_eq_self]
  case spcc =>
    rw [statusWord]
    iterate 11 rw [BitVec.extractLsb'_append_eq_of_le (by decide)]
    rw [BitVec.extractLsb'_append_eq_of_add_le (by decide), BitVec.extractLsb'_eq_self]
  case zeros =>
    rw [statusWord]
    iterate 14 rw [BitVec.extractLsb'_append_eq_of_le (by decide)]
    rw [BitVec.extractLsb'_eq_self]
  all_goals
    simp only [statusWord, BitVec.getLsbD_append]
    simp

/-! ### `ready` -/

@[simp] theorem writeArgument_ready (s : State) (n : Nat) (v : Word) : (writeArgument s n v).ready = s.ready := by
  unfold writeArgument
  split <;> rfl

@[simp] theorem extRelease_ready (s : State) : (extRelease s).ready = s.ready := by
  simp only [extRelease, apply_ite State.ready, ite_self]

@[simp] theorem extConfigure_ready (f : Word) (s : State) : (extConfigure f s).ready = s.ready := by
  simp only [extConfigure, apply_ite State.ready, ite_self]

/-- What a command can do to `ready`: COMMIT sets it and suspends the producer, BEGIN and TEARDOWN clear it, and every
other effect leaves it (R34). -/
theorem command_ready {s t : State} {i : Instr} (h : CommandEffect s i t) :
    t.ready = s.ready ∨ (i = .commit ∧ s.phase = .active ∧ t.ready = true ∧ t.prodWaiting = true) ∨
      ((i = .beginEngine ∨ i = .teardown) ∧ t.ready = false) := by
  cases h with
  | commit h => exact .inr (.inl ⟨rfl, h, rfl, rfl⟩)
  | beginEngine => exact .inr (.inr ⟨.inl rfl, by rw [beginSteps_eq]⟩)
  | teardown => exact .inr (.inr ⟨.inr rfl, by rw [teardownSteps_eq]⟩)
  | ignored | fatal | nop | init | teardownIdle | getwb | fbwr | getfc | getsc | csCoarse | csFine => exact .inl rfl

/-- What SEQ.ADVANCE can do to `ready`: leave it, or clear it and count a swap (R34, R194). -/
theorem advance_ready (s : State) :
    (advance s).ready = s.ready ∨ ((advance s).ready = false ∧ (advance s).swapCount = s.swapCount + 1) := by
  rcases advance_cases s with ⟨-, h⟩ | ⟨-, -, h⟩ | ⟨-, -, h⟩
  · exact .inl (by rw [h])
  · exact .inl (by rw [h])
  · exact .inr ⟨by rw [h], by rw [h]⟩

/-- The moves R34 lets set `ready`: the issue of a COMMIT in ACTIVE. -/
def SetsReady (s t : State) : Prop :=
  s.sched.head? = some .producer ∧ s.prog.head? = some (.write 0 0x12000000) ∧ s.phase = .active ∧ t.prodWaiting = true

/-- The moves R34 lets clear `ready`: a tick that swaps, a reset, BEGIN and TEARDOWN. -/
def ClearsReady (s t : State) : Prop :=
  (s.sched.head? = some .tick ∧ t.swapCount = s.swapCount + 1) ∨ s.sched.head? = some .reset ∨
    (s.sched.head? = some .producer ∧
      (s.prog.head? = some (.write 0 0x02000000) ∨ s.prog.head? = some (.write 0 0x03000000)))

/-- Every move of the spec leaves `ready`, or is one that R34 lets set or clear it. -/
theorem specStep_ready {s t : State} (h : SpecStep s t) :
    t.ready = s.ready ∨ (t.ready = true ∧ SetsReady s t) ∨ (t.ready = false ∧ ClearsReady s t) := by
  cases h with
  | command w i hs hp ho hd hh he =>
    have hw := encode_of_decodeCommand hd
    rcases command_ready he with h | ⟨rfl, hph, hr, hwait⟩ | ⟨rfl | rfl, hr⟩
    · exact .inl h
    · cases hw
      exact .inr (.inl ⟨hr, by simp [hs], by rw [ho]; rfl, hph, hwait⟩)
    · cases hw
      exact .inr (.inr ⟨hr, .inr (.inr ⟨by simp [hs], .inl (by rw [ho]; rfl)⟩)⟩)
    · cases hw
      exact .inr (.inr ⟨hr, .inr (.inr ⟨by simp [hs], .inr (by rw [ho]; rfl)⟩)⟩)
  | tick l hs =>
    rcases advance_ready { setSb (drained { s with sched := _ }) s.fillSel l with fillSel := !s.fillSel } with h | ⟨hr, hc⟩
    · exact .inl h
    · exact .inr (.inr ⟨hr, .inl ⟨by simp [hs], hc⟩⟩)
  | reset hs => exact .inr (.inr ⟨rfl, .inr (.inl (by simp [hs]))⟩)
  | argument n v => exact .inl (writeArgument_ready _ n v)
  | extRel => exact .inl (extRelease_ready _)
  | extCfg f => exact .inl (extConfigure_ready f _)
  | idle | skip | complete | read | illegal | extAcq => exact .inl rfl

/-- Settles O50: of the three things a move of the spec can do to `ready`, only the setting one agrees with a change to 1
and only the clearing one with a change to 0. -/
theorem readySetOnlyByCommit : Obligations.ReadySetOnlyByCommit := by
  refine ⟨rfl, fun s t hm h => ?_⟩
  rcases specStep_ready (spec_step hm h) with hk | ⟨hr, hset⟩ | ⟨hr, hclear⟩
  · exact ⟨by simp +contextual [hk], by simp +contextual [hk]⟩
  · exact ⟨fun _ _ => hset, by simp [hr]⟩
  · exact ⟨by simp [hr], fun _ _ => hclear⟩

end Sys2Proof.Machine
end

section
/-!
PROOFS of the clock synthesizer family (`spec/40_clock_synthesizer.md`): the coarse search and its two-stage reading
(R131 to R134), the fine search (R135 to R138), and the three plans (R141).
-/

namespace Sys2Proof.Machine

open Sys2Proof

/-! ### The two commands outside HALTED -/

theorem unlessHalted_of_ne {s : State} (h : s.phase ≠ .halted) (k : Result) : unlessHalted s k = k := if_neg h

theorem execCsCoarse_of_none {s : State} (hs : s.phase ≠ .halted) (h : coarse s.a0.toNat = none) :
    execCsCoarse s = .next (finish .infeasible { s with r0 := 0, r1 := 0, r2 := 0 }) := by
  rw [execCsCoarse, unlessHalted_of_ne hs, h]

theorem execCsCoarse_of_some {s : State} {d : Nat} (hs : s.phase ≠ .halted) (h : coarse s.a0.toNat = some d) :
    execCsCoarse s = .next (finish .done
      { s with r0 := 1, r1 := BitVec.ofNat 32 d, r2 := BitVec.ofNat 32 (s.a0.toNat * ratioK d) }) := by
  rw [execCsCoarse, unlessHalted_of_ne hs, h]

theorem inBand_eq_false_iff {t d : Nat} :
    inBand t d = false ↔ ¬ (350000000 ≤ t * (2 * (d + 2)) ∧ t * (2 * (d + 2)) ≤ 500000000) := by
  rw [← inBand_iff, Bool.not_eq_true]

/-- Settles O25: the band conditions of the statement are those under which the coarse search finds `d`, or nothing. -/
theorem coarseCommandResult : Obligations.CoarseCommandResult := by
  refine ⟨by decide, fun s hs => ⟨fun d ht hd hband hleast => ?_, fun hnone => ?_⟩⟩
  · exact execCsCoarse_of_some hs
      (coarse_eq_some.2 ⟨ht, hd, inBand_iff.2 hband, fun d' h => inBand_eq_false_iff.2 (hleast d' h)⟩)
  · exact execCsCoarse_of_none hs
      (coarse_eq_none.2 (hnone.imp_right fun h d hd => inBand_eq_false_iff.2 (h d hd)))

/-- Settles O29: out of HALTED the command is its test of the sentinel, one branch for each outcome. -/
theorem fineCommandResult : Obligations.FineCommandResult := by
  refine ⟨by decide, fun s hs => ⟨fun hf => ?_, fun hf => ?_⟩⟩
  · exact (unlessHalted_of_ne hs _).trans (if_pos hf)
  · exact (unlessHalted_of_ne hs _).trans (if_neg hf)

/-! ### The coarse search by the least divider that reaches the band -/

/-- The multiplied frequency grows with the divider (R133). -/
theorem multiplied_mono (t : Nat) {d e : Nat} (h : d ≤ e) : t * (2 * (d + 2)) ≤ t * (2 * (e + 2)) :=
  Nat.mul_le_mul_left t (by omega)

/-- The least divider in the band is the least that reaches it: a lesser one reaching it would not exceed it either. -/
theorem coarse_eq_some_iff_reaches {t d : Nat} :
    coarse t = some d ↔ d ≤ 31 ∧ 350000000 ≤ t * (2 * (d + 2)) ∧ t * (2 * (d + 2)) ≤ 500000000 ∧
      ∀ d' < d, t * (2 * (d' + 2)) < 350000000 := by
  rw [coarse_eq_some]
  simp only [inBand_iff, inBand_eq_false_iff]
  constructor
  · rintro ⟨-, hd, ⟨hmin, hmax⟩, hleast⟩
    refine ⟨hd, hmin, hmax, fun d' h => ?_⟩
    have := multiplied_mono t h.le
    have := hleast d' h
    omega
  · rintro ⟨hd, hmin, hmax, hleast⟩
    refine ⟨fun ht => by simp [ht] at hmin, hd, ⟨hmin, hmax⟩, fun d' h => ?_⟩
    have := hleast d' h
    omega

/-- Stage 1 finds that same divider. -/
theorem coarseStage1_eq_coarse (t : Nat) : coarseStage1 t = coarse t := by
  ext d
  simp only [coarseStage1, Option.filter_eq_some_iff, List.find?_range_eq_some, coarse_eq_some_iff_reaches,
    decide_eq_true_eq, List.mem_range, Bool.not_eq_true', decide_eq_false_iff_not, Nat.not_le]
  constructor
  · rintro ⟨⟨hmin, hd, hleast⟩, hmax⟩
    exact ⟨Nat.le_of_lt_succ hd, hmin, hmax, hleast⟩
  · rintro ⟨hd, hmin, hmax, hleast⟩
    exact ⟨⟨hmin, Nat.lt_succ_of_le hd, hleast⟩, hmax⟩

/-- What stage 2 answers is a divider of the range in the band. -/
theorem inBand_of_coarseStage2 {t d : Nat} (h : coarseStage2 t = some d) : d ≤ 31 ∧ inBand t d = true := by
  obtain ⟨hfind, hmin⟩ := Option.filter_eq_some_iff.1 h
  have hmem := List.mem_range.1 (List.mem_reverse.1 (List.mem_of_find?_eq_some hfind))
  have hmax := List.find?_some hfind
  exact ⟨by omega, inBand_iff.2 ⟨of_decide_eq_true hmin, of_decide_eq_true hmax⟩⟩

/-- A divider of the range in the band is enough for the coarse search to succeed: the target is then not 0 either. -/
theorem coarse_ne_none_of_inBand {t d : Nat} (hd : d ≤ 31) (h : inBand t d = true) : coarse t ≠ none := by
  rw [Ne, coarse_eq_none]
  rintro (rfl | hnone)
  · simp [inBand_iff] at h
  · exact Bool.false_ne_true ((hnone d hd).symm.trans h)

/-- Settles O27: stage 1 is the coarse search, and where it fails no divider is in the band, so stage 2 fails too. -/
theorem coarseStagesAgree : Obligations.CoarseStagesAgree := by
  intro t
  rw [coarseStage1_eq_coarse]
  have hstage2 : coarse t = none → coarseStage2 t = none := by
    intro hnone
    rw [Option.eq_none_iff_forall_ne_some]
    intro d h
    obtain ⟨hd, hband⟩ := inBand_of_coarseStage2 h
    exact coarse_ne_none_of_inBand hd hband hnone
  refine ⟨?_, hstage2⟩
  cases h : coarse t with
  | none => exact (hstage2 h).symm
  | some d => rfl

/-- From divider 2 on, one divider more multiplies by at most 4/3, and `BMAX` is more than 4/3 of `BMIN`: the least
divider that reaches the band does not exceed it. -/
theorem multiplied_le_of_below {t e : Nat} (h : t * (2 * (e + 1 + 2)) < 350000000) :
    t * (2 * (e + 2 + 2)) ≤ 500000000 := by
  have hdiff : t * (2 * (e + 2 + 2)) = t * (2 * (e + 1 + 2)) + 2 * t := by ring
  have h1 : t * (2 * (1 + 2)) ≤ t * (2 * (e + 1 + 2)) := multiplied_mono t (by omega)
  omega

theorem exists_least_reaching {t e : Nat} (h : 350000000 ≤ t * (2 * (e + 2))) :
    ∃ d ≤ e, 350000000 ≤ t * (2 * (d + 2)) ∧ ∀ d' < d, t * (2 * (d' + 2)) < 350000000 :=
  have hex : ∃ d, 350000000 ≤ t * (2 * (d + 2)) := ⟨e, h⟩
  ⟨Nat.find hex, Nat.find_min' hex h, Nat.find_spec hex, fun _ hlt => Nat.lt_of_not_le (Nat.find_min hex hlt)⟩

/-- Settles O26: divider 0 alone serves the second interval, and dividers 1 to 31 the first, whose upper end is where
divider 1 meets `BMAX`; the least divider that reaches the band is the one the search finds. -/
theorem coarseSupportRange : Obligations.CoarseSupportRange := by
  intro t
  rw [Option.isSome_iff_exists]
  constructor
  · rintro ⟨d, hcoarse⟩
    obtain ⟨hd, hmin, hmax, -⟩ := coarse_eq_some_iff_reaches.1 hcoarse
    have h31 := multiplied_mono t hd
    rcases Nat.eq_zero_or_pos d with rfl | hpos
    · omega
    · have h1 := multiplied_mono t hpos
      omega
  · intro ht
    have h31 : 350000000 ≤ t * (2 * (31 + 2)) := by omega
    obtain ⟨d, hd, hmin, hleast⟩ := exists_least_reaching h31
    refine ⟨d, coarse_eq_some_iff_reaches.2 ⟨hd, hmin, ?_, hleast⟩⟩
    match d with
    | 0 => omega
    | 1 =>
      have := hleast 0 (by omega)
      omega
    | e + 2 => exact multiplied_le_of_below (hleast (e + 1) (by omega))

/-! ### The fine search -/

theorem carries_iff {r t dmax : Nat} :
    carries r t dmax = true ↔ (2 * (dmax - 1) - 1) * t < 2 * (dmax - 1) * r := decide_eq_true_iff

theorem fineFinish_of_inRange {src n b a lo hi : Nat} (h : lo ≤ n ∧ n < hi ∧ n ≠ 0) :
    fineFinish src n b a lo hi = ⟨src * a / (n * a + b), n, b, a⟩ := if_neg (by omega)

theorem fineFinish_of_not_inRange {src n b a lo hi : Nat} (h : ¬ (lo ≤ n ∧ n < hi ∧ n ≠ 0)) :
    fineFinish src n b a lo hi = ⟨0, 0, 0, 0⟩ := if_pos (by omega)

theorem fine_of_infeasible {src t dmax lo hi : Nat} (h : t = 0 ∨ dmax < 3) : fine src t dmax lo hi = ⟨0, 0, 0, 0⟩ :=
  if_pos h

theorem fine_of_carries {src t dmax lo hi : Nat} (h0 : ¬ (t = 0 ∨ dmax < 3)) (hc : carries (src % t) t dmax = true) :
    fine src t dmax lo hi = fineFinish src (src / t + 1) 0 2 lo hi := by
  rw [fine, if_neg h0, if_pos hc]

/-- Of the numerators with the least error the nearest numerator is the greatest: a half rounds up (R137). -/
theorem le_nearestNumerator {r t c b : Nat} (ht : 0 < t) (h : absDiff (t * b) (r * c) = fineError r t c) :
    b ≤ nearestNumerator r t c := by
  obtain ⟨hlo, hhi⟩ := nearestNumerator_bounds r c ht
  by_contra hcon
  have hstep := Nat.mul_le_mul_left t (show nearestNumerator r t c + 1 ≤ b by omega)
  rw [Nat.mul_add] at hstep
  unfold fineError absDiff at h
  omega

/-- Settles O28: without a carry the denominator is the one the scan keeps and the numerator the nearest one. -/
theorem fineSearchFollowsRules : Obligations.FineSearchFollowsRules := by
  intro src t dmax lo hi
  refine ⟨fine_of_infeasible, fun ht hd => ⟨fun hc => ?_, fun hc => ?_⟩⟩
  · rw [fine_of_carries (by omega) (carries_iff.2 hc)]
    exact ⟨fun ⟨hlo, hhi⟩ => fineFinish_of_inRange ⟨hlo, hhi, Nat.succ_ne_zero _⟩,
      fun h => fineFinish_of_not_inRange fun ⟨hlo, hhi, _⟩ => h ⟨hlo, hhi⟩⟩
  · have hnc : carries (src % t) t dmax = false := decide_eq_false (Nat.not_lt.2 hc)
    obtain ⟨h2, hlt, hle, hfirst⟩ := scanDenominator_spec (src % t) t hd
    refine ⟨scanDenominator (src % t) t dmax, nearestNumerator (src % t) t (scanDenominator (src % t) t dmax), h2, hlt,
      fun c b' hc2 hcd => (hle c hc2 hcd).trans (fineError_le _ c b' ht),
      fun c b' hc2 hca => (hfirst c hc2 hca).trans_le (fineError_le _ c b' ht),
      fun b' hb => le_nearestNumerator ht hb, ?_⟩
    rw [fine_of_scan (by omega) rfl rfl hnc rfl]
    exact ⟨fineFinish_of_inRange, fineFinish_of_not_inRange⟩

/-! ### The three plans -/

/-- Settles O33: each plan is the certified one of its target; the ratios and multiplied frequencies are arithmetic. -/
theorem defaultPlans : Obligations.DefaultPlans :=
  ⟨synthPlan_ntsc3, synthPlan_ntsc4, synthPlan_pal4, rfl, rfl, rfl, rfl, rfl, rfl⟩

end Sys2Proof.Machine
end

section
/-!
PROOFS of the pixel encoder family (`spec/41_pixel_encoder.md`): the three encoders over the function they share (R163 to
R166, R168).
-/

namespace Sys2Proof.Machine

open Sys2Proof

/-! ### Each encoder standing alone is one call of ENCODE -/

theorem exec_peEncN3 (s : State) :
    exec .peEncN3 s = encodeRow s.frontSel s.uop.row s.uop.j s.prof.activeStart.toNat false 2 3 s := rfl

theorem exec_peEncN4 (s : State) :
    exec .peEncN4 s = encodeRow s.frontSel s.uop.row s.uop.j s.prof.activeStart.toNat false 3 4 s := rfl

theorem exec_peEncP4 (s : State) :
    exec .peEncP4 s = encodeRow s.frontSel s.uop.row s.uop.j s.prof.activeStart.toNat s.uop.parity 3 4 s := rfl

/-! ### What ENCODE writes -/

theorem fbRowExists_iff {s : State} {row : Nat} :
    fbRowExists s row = true ↔ s.fbValid = true ∧ row < s.prof.activeLines.toNat := by
  simp [fbRowExists]

/-- Sample `q` of an encoded row is a word of the pixel that covers it; the read of an unspecified pixel is no value, and so
is its sample (R163, R168). -/
theorem encodedSample_eq_map_fbRead (s : State) (h v : Bool) (row spp spcc q : Nat) :
    encodedSample (Config.palRom v) (fbOf s h) row spp spcc q =
      (fbRead s h row (q / spp)).map fun i => phaseWord (Config.palRom v i) (q % spcc) := rfl

/-- The ranged write of an encoded row leaves at each position of the line what the rule puts there. -/
theorem writeFrom_encodedSample_getElem? {s : State} {row : Nat} {v : Bool} {spp spcc o : Nat} {l : Line} {p : Nat}
    (hp : p < l.length) :
    (writeFrom 0 o (o + Config.fbWidth * spp)
        (fun p => encodedSample (Config.palRom v) (fbOf s s.frontSel) row spp spcc (p - o)) l)[p]? =
      encodedAt s row v spp spcc o l p := by
  rw [write_getElem? hp, encodedAt, Config.fbWidth]
  split_ifs with hin
  · rw [encodedSample_eq_map_fbRead]
  · rw [List.getElem?_eq_getElem hp]

/-- ENCODE of a row that exists into a buffer it fits: it completes, and its one effect is the encoded row in `SB[j]`
(R163). -/
theorem encodeRow_writes {s : State} {row : Nat} {j v : Bool} {spp spcc o : Nat} (hr : fbRowExists s row = true)
    (hv : s.sbValid = true) (hl : o + 256 * spp ≤ (sbOf s j).length) :
    ∃ t, encodeRow s.frontSel row j o v spp spcc s = .next t ∧ t = setSb s j (sbOf t j) ∧
      (sbOf t j).length = (sbOf s j).length ∧
      ∀ p, p < (sbOf s j).length → (sbOf t j)[p]? = encodedAt s row v spp spcc o (sbOf s j) p := by
  refine ⟨_, encodeRow_next hr hv hl, ?_⟩
  rw [sbOf_setSb_same]
  exact ⟨rfl, writeFrom_length .., fun p hp => writeFrom_encodedSample_getElem? hp⟩

/-- Settles O37: the three encoders are ENCODE from `activeStart` with the numbers of their modes, 512 samples at 2 a pixel
and 768 at 3. -/
theorem encodersWriteTheRow : Obligations.EncodersWriteTheRow := by
  intro s o j hfb hrow hsb
  have hr : fbRowExists s s.uop.row = true := fbRowExists_iff.2 ⟨hfb, hrow⟩
  rw [exec_peEncN3, exec_peEncN4, exec_peEncP4]
  exact ⟨fun h512 => encodeRow_writes hr hsb h512,
    fun h768 => ⟨encodeRow_writes hr hsb h768, encodeRow_writes hr hsb h768⟩⟩

end Sys2Proof.Machine
end

section
/-!
PROOFS of the scan timing engine family (`spec/42_scan_timing_engine.md`): the four line operations at every position of the
line (R186 to R191), the line program (R184, R185), the transition rule (R194) and one TICK whole (R181).
-/

namespace Sys2Proof.Machine

open Sys2Proof

/-! ### The line operations standing alone -/

theorem exec_lineActive (s : State) : exec .lineActive s = lineActive s.uop.j s.uop.row s.uop.parity s := rfl

theorem exec_lineBlank (s : State) : exec .lineBlank s = lineBlank s.uop.j s := rfl

theorem exec_lineVsync (s : State) : exec .lineVsync s = lineVsync s.uop.j s := rfl

theorem exec_linePalsync (s : State) : exec .linePalsync s = linePalsync s.uop.j s.uop.t s := rfl

theorem exec_seqAdvance (s : State) : exec .seqAdvance s = .next (advance s) := rfl

@[simp] theorem levelWord_syncLevel : levelWord Config.syncLevel = 0x0000 := rfl

@[simp] theorem levelWord_blankLevel : levelWord Config.blankLevel = 0x1400 := rfl

/-- A built line read off the state it leaves: only `SB[j]` differs, with the content at each position. -/
theorem LineIs.exists_next {s : State} {j : Bool} {w : Nat} {g : Nat → Option Sample} {o : Result}
    (h : LineIs s j w g o) :
    ∃ t, o = .next t ∧ t = setSb s j (sbOf t j) ∧ (sbOf t j).length = w ∧ ∀ x, x < w → (sbOf t j)[x]? = some (g x) := by
  obtain ⟨l, rfl, hl, hg⟩ := h
  refine ⟨_, rfl, ?_⟩
  rw [sbOf_setSb_same]
  exact ⟨rfl, hl, hg⟩

theorem blankContent_eq (s : State) (x : Nat) :
    blankContent s x = some (if x < s.prof.hsync.toNat then 0x0000 else 0x1400) := by
  rw [blankContent, apply_ite levelWord, levelWord_syncLevel, levelWord_blankLevel]

theorem vsyncContent_eq (s : State) (x : Nat) :
    vsyncContent s x = some (if x < s.prof.hsyncLong.toNat then 0x0000 else 0x1400) := by
  rw [vsyncContent, apply_ite levelWord, levelWord_syncLevel, levelWord_blankLevel]

/-- Settles O39: the two FILLs of LINE.BLANK leave the words of the two levels. -/
theorem lineBlankSamples : Obligations.LineBlankSamples := by
  intro s hsb hlen hsync
  obtain ⟨t, hexec, hframe, hlen', hat⟩ := (lineBlank_spec hsb hlen hsync).exists_next
  exact ⟨t, hexec, hframe, hlen', fun x hx => (hat x hx).trans (congrArg some (blankContent_eq s x))⟩

/-- Settles O40: the two FILLs of LINE.VSYNC leave the words of the two levels. -/
theorem lineVsyncSamples : Obligations.LineVsyncSamples := by
  intro s hsb hlen hsync
  obtain ⟨t, hexec, hframe, hlen', hat⟩ := (lineVsync_spec hsb hlen hsync).exists_next
  exact ⟨t, hexec, hframe, hlen', fun x hx => (hat x hx).trans (congrArg some (vsyncContent_eq s x))⟩

/-! ### LINE.PALSYNC -/

/-- Every row of the PAL sync table, its two pulses read as the statement lists them (R191). -/
theorem palSyncRom_row {t : Nat} (ht : t < 8) :
    ∃ c, palSyncRom t = some c ∧ c.getLsbD 1 = decide (t = 3 ∨ t = 4 ∨ t = 5) ∧ c.getLsbD 0 = decide (t = 3 ∨ t = 4) := by
  interval_cases t <;> exact ⟨_, rfl, by decide, by decide⟩

theorem pulseWidth_decide (p : Profile) (c : Prop) [Decidable c] :
    pulseWidth p (decide c) = if c then p.hsyncLong.toNat else p.hsyncShort.toNat := by
  simp [pulseWidth]

/-- A line whose first pulse fits its half has sync level exactly inside the two pulses (R190). -/
theorem palsyncContent_eq {s : State} {c : BitVec 2} (hfits : pulseWidth s.prof (c.getLsbD 1) ≤ lineWidth s / 2)
    (x : Nat) :
    palsyncContent s c x = some (if x < pulseWidth s.prof (c.getLsbD 1) ∨
      lineWidth s / 2 ≤ x ∧ x < lineWidth s / 2 + pulseWidth s.prof (c.getLsbD 0) then 0x0000 else 0x1400) := by
  by_cases hhalf : x < lineWidth s / 2
  · have hsecond : ¬ lineWidth s / 2 ≤ x := Nat.not_le.2 hhalf
    simp only [palsyncContent, if_pos hhalf, hsecond, false_and, or_false, apply_ite levelWord, levelWord_syncLevel,
      levelWord_blankLevel]
  · have hpast : ¬ x < pulseWidth s.prof (c.getLsbD 1) := by omega
    simp only [palsyncContent, if_neg hhalf, hpast, Nat.not_lt.1 hhalf, true_and, false_or, apply_ite levelWord,
      levelWord_syncLevel, levelWord_blankLevel]

/-- Settles O41: the table entry of the row gives the two pulse widths, and the line has sync level inside the pulses. -/
theorem linePalsyncSamples : Obligations.LinePalsyncSamples := by
  intro s p j half w1 w2 ht hsb hlen hlong hshort
  obtain ⟨c, hc, hbit1, hbit0⟩ := palSyncRom_row ht
  have hw1 : pulseWidth p (c.getLsbD 1) = w1 := by rw [hbit1, pulseWidth_decide]
  have hw2 : pulseWidth p (c.getLsbD 0) = w2 := by rw [hbit0, pulseWidth_decide]
  have hfits : pulseWidth p (c.getLsbD 1) ≤ half := by
    rw [hbit1, pulseWidth_decide]
    split_ifs
    · exact hlong
    · exact hshort
  obtain ⟨t, hexec, hframe, hlen', hat⟩ := (linePalsync_spec hc hsb hlen hlong hshort).exists_next
  refine ⟨t, hexec, hframe, hlen', fun x hx => ?_⟩
  rw [← hw1, ← hw2]
  exact (hat x hx).trans (congrArg some (palsyncContent_eq hfits x))

/-! ### LINE.ACTIVE -/

/-- BURST_ROM has one level per phase in every row a line of the mode reads (R187). -/
theorem burstRom_row {m : Mode} {parity : Bool} (h : parity = true → m = .pal4) :
    ∃ b, burstRom m parity = some b ∧ b.length = spccOf m ∧ ∀ k, b[k]? = burstLevelOf m parity k := by
  cases parity with
  | false => cases m <;> exact ⟨_, rfl, rfl, fun _ => rfl⟩
  | true =>
    obtain rfl := h rfl
    exact ⟨_, rfl, rfl, fun _ => rfl⟩

theorem spccOf_pos (m : Mode) : 0 < spccOf m := by cases m <;> decide

/-- With the mode's own `spcc` the burst reads that row. -/
theorem burstLevels_of_burstRom {s : State} {m : Mode} {parity : Bool} {b : List Byte} (hm : stateMode s = some m)
    (hspcc : s.prof.spcc.toNat = spccOf m) (hb : burstRom m parity = some b) (hlen : b.length = spccOf m) :
    burstLevels s parity = some b := by
  simp [burstLevels, hm, hb, hspcc, hlen, spccOf_pos]

theorem variantOf_eq (m : Mode) (parity : Bool) : variantOf m parity = (decide (m = .pal4) && parity) := by
  cases m <;> rfl

theorem sppOf_eq_ite (m : Mode) : (if m = .ntsc3 then 2 else 3) = sppOf m := by cases m <;> rfl

theorem spccOf_eq_ite (m : Mode) : (if m = .ntsc3 then 3 else 4) = spccOf m := by cases m <;> rfl

/-- Settles O38: the content LINE.ACTIVE leaves, read off in each of the six ranges. -/
theorem lineActiveSamples : Obligations.LineActiveSamples := by
  intro s m
  dsimp only
  rw [sppOf_eq_ite, spccOf_eq_ite]
  intro hm hspp hspcc hparity hsyncEnd hburstEnd hpictureEnd hfb hrow hsb hlen
  obtain ⟨b, hb, hblen, hlevel⟩ := burstRom_row hparity
  obtain ⟨t, hexec, hframe, hlen', hat⟩ :=
    (lineActive_spec hm (burstLevels_of_burstRom hm hspcc hb hblen) hspp (fbRowExists_iff.2 ⟨hfb, hrow⟩) hsb hlen
      hsyncEnd hburstEnd (by rw [hspp]; exact hpictureEnd)).exists_next
  refine ⟨t, hexec, hframe, hlen', fun x hx => ?_⟩
  rw [hat x hx, activeContent, Config.fbWidth]
  refine ⟨fun h => ?sync, fun h1 h2 => ?breezeway, fun h1 h2 => ?burst, fun h1 h2 => ?beforePicture,
    fun h1 h2 => ?picture, fun h => ?afterPicture⟩
  case sync => rw [if_pos h, levelWord_syncLevel]
  case breezeway => rw [if_neg (by omega), if_pos h2, levelWord_blankLevel]
  case burst =>
    have hk : (x - s.prof.burstStart.toNat) % spccOf m < b.length := by
      rw [hblen]
      exact Nat.mod_lt _ (spccOf_pos m)
    rw [if_neg (by omega), if_neg (by omega), if_pos h2, hspcc, ← hlevel, List.getElem?_eq_getElem hk]
    exact ⟨_, rfl, rfl⟩
  case beforePicture =>
    rw [if_neg (by omega), if_neg (by omega), if_neg (by omega), if_pos h2, levelWord_blankLevel]
  case picture =>
    rw [if_neg (by omega), if_neg (by omega), if_neg (by omega), if_neg (by omega), if_pos h2, encodedAt,
      if_pos ⟨h1, h2⟩, encodedSample_eq_map_fbRead, variantOf_eq]
  case afterPicture =>
    rw [if_neg (by omega), if_neg (by omega), if_neg (by omega), if_neg (by omega), if_neg (by omega),
      levelWord_blankLevel]

/-! ### The sequencer -/

/-- Settles O42: the line programs of the three latched profiles. -/
theorem lineProgramTables : Obligations.LineProgramTables :=
  ⟨fun _ _ hm hi => lineProgram_ntsc hm hi, fun _ hi => lineProgram_pal hi⟩

/-- Settles O43: the three cases of SEQ.ADVANCE. -/
theorem seqAdvanceTransition : Obligations.SeqAdvanceTransition := by
  intro s
  rw [exec_seqAdvance]
  exact ⟨fun hw => congrArg _ (advance_within hw), fun hw hr => congrArg _ (advance_wrap hw hr),
    fun hw hr => congrArg _ (advance_swap hw hr)⟩

/-! ### One TICK, whole -/

theorem step_tick {s : State} {rest : List Move} (h : s.sched = .tick :: rest) :
    step s = lineEvent { s with sched := rest } := by
  rw [step, nextMove, h]
  rfl

/-- The invariant says nothing of the schedule. -/
theorem State.Inv.setSched {s : State} (h : s.Inv) (rest : List Move) : State.Inv { s with sched := rest } :=
  { h with }

/-- What a tick leaves of `s` when it puts line `l` in `SB[fillSel]`: SEQ.ADVANCE of `s`, with the streamed line recorded,
that buffer refilled and the buffer number inverted (R181). -/
def ticked (s : State) (rest : List Move) (l : Line) : State :=
  { advance s with
    sched := rest
    out := (drained s).out
    draws := (drained s).draws
    sb0 := (setSb s s.fillSel l).sb0
    sb1 := (setSb s s.fillSel l).sb1
    fillSel := !s.fillSel }

/-- SEQ.ADVANCE neither reads nor writes what the rest of a tick changes. -/
theorem advance_update (s : State) (sched : List Move) (out : List (List Sample)) (draws : Nat) (sb0 sb1 : Line)
    (fillSel : Bool) :
    advance { s with sched := sched, out := out, draws := draws, sb0 := sb0, sb1 := sb1, fillSel := fillSel } =
      { advance s with sched := sched, out := out, draws := draws, sb0 := sb0, sb1 := sb1, fillSel := fillSel } := by
  simp only [advance, swapBuffers]
  split_ifs <;> rfl

theorem advance_afterFill (s : State) (rest : List Move) (l : Line) :
    advance { setSb (drained { s with sched := rest }) s.fillSel l with fillSel := !s.fillSel } = ticked s rest l :=
  advance_update s ..

/-- From every state of the invariant an enabled tick completes, with the line the selected operation makes of that state. -/
theorem step_tick_completes {s : State} {rest : List Move} (hi : s.Inv) (ht : s.tickEnable = true)
    (hs : s.sched = .tick :: rest) :
    ∃ l : Line, runLine (lineProgram s.prof s.lineCounter.toNat) s.fillSel s = .next (setSb s s.fillSel l) ∧
      step s = .next (ticked s rest l) := by
  obtain ⟨l, hrun, -, hevent⟩ := lineEvent_completes (hi.setSched rest) ht
  refine ⟨l, fillsAlike_runLine _ _ _ s l (alike_sched { s with sched := rest } s.sched) hrun, ?_⟩
  rw [step_tick hs, hevent]
  exact congrArg _ (advance_afterFill s rest l)

/-- A tick streams every element of `SB[fillSel]` that holds a value as that value. -/
theorem streamed_take_getElem? {d w p : Nat} {l : Line} {v : Sample} (hl : l.length = w) (h : l[p]? = some (some v)) :
    (streamed d (l.take w))[p]? = some v := by
  rw [streamed_getElem?, List.take_of_length_le hl.le, h]
  rfl

/-- The invariant gives each sample buffer of a running engine the length of the line (R43). -/
theorem State.Inv.sbOf_length {s : State} (h : s.Inv) (ht : s.tickEnable = true) (j : Bool) :
    (sbOf s j).length = lineWidth s := by
  have hactive : s.phase = .active := by simpa [ht] using h.tickEnabled
  obtain ⟨h0, h1⟩ := h.sbSize (h.activePhase hactive)
  cases j
  · exact h0
  · exact h1

/-- Settles O45: an enabled tick is `ticked`, whose parts are those the statement lists. -/
theorem tickWholeStep : Obligations.TickWholeStep := by
  refine ⟨fun s rest ht hs => ?disabled, fun s rest hi ht hs => ?enabled⟩
  case disabled =>
    rw [step_tick hs]
    exact if_neg (by simp [ht])
  case enabled =>
    obtain ⟨l, hrun, hstep⟩ := step_tick_completes hi ht hs
    have hlen := hi.sbOf_length ht s.fillSel
    refine ⟨ticked s rest l, setSb s s.fillSel l, streamed s.draws ((sbOf s s.fillSel).take (lineWidth s)), hstep, rfl,
      ?_, fun p v hv => streamed_take_getElem? hlen hv, hrun, rfl, sbOf_setSb_other s s.fillSel l,
      rfl, rfl, rfl, rfl, rfl, rfl, rfl, ?frame⟩
    · rw [streamed_length, List.length_take, hlen, min_self]
      rfl
    case frame =>
      rw [ticked, advance_frame]

end Sys2Proof.Machine
end

section
/-!
PROOFS of the frame buffer coordinator family (`spec/43_frame_buffer_coordinator.md`): the handle of GETWB (R222), the
checks of FBWR (R224) and the issue of COMMIT (R229).
-/

namespace Sys2Proof.Machine

open Sys2Proof

/-- A fatal error writes its word to `FAULT`, halts and disables the interrupt (R281). -/
theorem raiseFatal_eq {e : FatalError} {opcode : Byte} {cause : BitVec 4} {w : Word} (s : State)
    (hw : faultWord e opcode cause = w) :
    raiseFatal e opcode cause s = { s with fault := w, phase := .halted, tickEnable := false } := by
  rw [← hw, raiseFatal]

/-! ### The two phase checks the three commands share (R220, R287) -/

theorem phaseChecks_of_active {s : State} (h : s.phase = .active) (opcode : Byte) (k : Result) :
    unlessHalted s (requireActive opcode s k) = k := by
  have hrun : s.phase ≠ .halted := by simp [h]
  exact (unlessHalted_of_ne hrun _).trans (if_pos h)

theorem phaseChecks_of_inactive {s : State} (h : s.phase = .unconfigured ∨ s.phase = .configured) {opcode : Byte}
    {w : Word} (hw : faultWord .configurationError opcode 3 = w) (k : Result) :
    unlessHalted s (requireActive opcode s k) = .next { s with fault := w, phase := .halted, tickEnable := false } := by
  have hrun : s.phase ≠ .halted := by rcases h with h | h <;> simp [h]
  have hidle : s.phase ≠ .active := by rcases h with h | h <;> simp [h]
  rw [unlessHalted_of_ne hrun, requireActive, if_neg hidle, raiseFatal_eq s hw]

/-! ### GETWB -/

/-- The register word of the back buffer's handle, `1 - frontSel`. -/
theorem bitWord_not (b : Bool) : bitWord (!b) = if b then 0 else 1 := by cases b <;> rfl

theorem exec_getwb_active {s : State} (h : s.phase = .active) :
    exec .getwb s = .next (finish .done { s with r0 := bitWord (!s.frontSel) }) :=
  phaseChecks_of_active h ..

/-- Settles O15: in ACTIVE the phase checks pass and the handle is `1 - frontSel`;
in the two phases before it they raise cause 3. -/
theorem getwbReturnsBackHandle : Obligations.GetwbReturnsBackHandle := by
  refine ⟨rfl, fun s h => ?active, fun s h => ?inactive⟩
  case active =>
    rw [exec_getwb_active h, bitWord_not]
    rfl
  case inactive => exact phaseChecks_of_inactive h (by decide) _

/-! ### FBWR -/

theorem exec_fbwr_frontBuffer {s : State} {row col : Nat} (h : s.phase = .active) (hfront : fbwrHandle s = s.frontSel) :
    exec (.fbwr row col) s = .next (raiseFatal .ownershipViolation 0x11 0 s) :=
  (phaseChecks_of_active h ..).trans (if_pos hfront)

theorem exec_fbwr_outOfRange {s : State} {row col : Nat} (h : s.phase = .active) (hback : fbwrHandle s ≠ s.frontSel)
    (hrange : s.prof.activeLines.toNat ≤ row ∨ Config.fbWidth ≤ col) :
    exec (.fbwr row col) s = .next (raiseFatal .boundsViolation 0x11 0 s) :=
  (phaseChecks_of_active h ..).trans ((if_neg hback).trans (if_pos hrange))

/-- Settles O17: the phase check, then ownership, then the range of the index, each with its own `FAULT` word. -/
theorem fbwrChecksInOrder : Obligations.FbwrChecksInOrder := by
  refine fun s row col => ⟨fun h => ?inactive, fun h hfront => ?front, fun h hback hrange => ?outOfRange⟩
  case inactive => exact phaseChecks_of_inactive h (by decide) _
  case front => exact (exec_fbwr_frontBuffer h hfront).trans (congrArg _ (raiseFatal_eq s (by decide)))
  case outOfRange => exact (exec_fbwr_outOfRange h hback hrange).trans (congrArg _ (raiseFatal_eq s (by decide)))

/-! ### COMMIT -/

/-- Settles O18: in ACTIVE the phase checks pass and leave the one write of the issue;
in the two phases before it they raise cause 3. -/
theorem commitIssue : Obligations.CommitIssue := by
  refine ⟨fun s h => ?active, fun s h => ?inactive⟩
  case active => exact phaseChecks_of_active h ..
  case inactive => exact phaseChecks_of_inactive h (by decide) _

end Sys2Proof.Machine
end

section
/-!
PROOFS of the engine lifecycle family (`spec/44_engine_lifecycle.md`): NOP (R250), INIT (R251, R253), BEGIN (R256, R257),
TEARDOWN (R260, R261), and the diagnostic reads GETFC and GETSC (R264, R265).
-/

namespace Sys2Proof.Machine

open Sys2Proof

/-! ### NOP -/

/-- Settles O13: NOP is the check for HALTED before the write of `LASTERR`. -/
theorem nopOnlyClearsLastErr : Obligations.NopOnlyClearsLastErr :=
  ⟨by decide, fun _ => (apply_ite Host.Outcome.next _ _ _).symm⟩

/-! ### TEARDOWN -/

theorem exec_teardown_configured {s : State} (h : s.phase = .configured ∨ s.phase = .active) :
    exec .teardown s = .next (teardownSteps s) := by
  have hrun : s.phase ≠ .halted := by rcases h with h | h <;> simp [h]
  have hconf : s.phase ≠ .unconfigured := by rcases h with h | h <;> simp [h]
  exact (unlessHalted_of_ne hrun _).trans (if_neg hconf)

theorem exec_teardown_unconfigured {s : State} (h : s.phase = .unconfigured) :
    exec .teardown s = .next (finish .done s) := by
  have hrun : s.phase ≠ .halted := by simp [h]
  exact (unlessHalted_of_ne hrun _).trans (if_pos h)

/-- Settles O24: a configured engine is left as the five steps leave it, an unconfigured one keeps everything but
`LASTERR`. -/
theorem teardownLeaves : Obligations.TeardownLeaves := by
  refine ⟨fun s h => ?configured, fun s h => exec_teardown_unconfigured h⟩
  case configured => exact (exec_teardown_configured h).trans (congrArg _ (teardownSteps_eq s))

/-! ### GETFC and GETSC -/

theorem exec_getfc {s : State} (h : s.phase ≠ .halted) :
    exec .getfc s = .next { s with r0 := s.frameCount, lastErr := 0 } :=
  unlessHalted_of_ne h _

theorem exec_getsc {s : State} (h : s.phase ≠ .halted) :
    exec .getsc s = .next { s with r0 := s.swapCount, lastErr := 0 } :=
  unlessHalted_of_ne h _

theorem notCounting_writeArgument (n : Nat) (v : Word) {s : State} (h : notCounting s) :
    notCounting (writeArgument s n v) := by
  unfold writeArgument
  split <;> exact h

theorem notCounting_extRelease {s : State} (h : notCounting s) : notCounting (extRelease s) := by
  unfold extRelease
  split <;> exact h

theorem notCounting_extConfigure (f : Word) {s : State} (h : notCounting s) : notCounting (extConfigure f s) := by
  unfold extConfigure
  split_ifs <;> exact h

/-- TEARDOWN and a fatal error disable the interrupt and leave the counters, and no other command but BEGIN touches
either. -/
theorem command_notCounting {s t : State} {i : Instr} (h : CommandEffect s i t) (hc : notCounting s) :
    notCounting t ∨ (i = .beginEngine ∧ s.phase = .configured) := by
  have ⟨_, hframes, hswaps⟩ := hc
  cases h with
  | beginEngine hp => exact .inr ⟨rfl, hp⟩
  | teardown =>
    rw [teardownSteps_eq]
    exact .inl ⟨rfl, hframes, hswaps⟩
  | fatal => exact .inl ⟨rfl, hframes, hswaps⟩
  | ignored | nop | init | teardownIdle | getwb | fbwr | commit | getfc | getsc | csCoarse | csFine => exact .inl hc

/-- While the counters have not started, every move of the spec leaves them so or is a BEGIN from CONFIGURED: a tick is
dropped, since the interrupt is disabled. -/
theorem specStep_notCounting {s t : State} (hc : notCounting s) (h : SpecStep s t) : notCounting t ∨ beginsNow s := by
  have ⟨hdisabled, hframes, hswaps⟩ := hc
  cases h with
  | command w i hs hp ho hd hh he =>
    rcases command_notCounting he hc with ht | ⟨rfl, hph⟩
    · exact .inl ht
    · cases encode_of_decodeCommand hd
      exact .inr ⟨by rw [hs]; rfl, by rw [ho]; rfl, hph⟩
  | tick l hs ht => exact absurd (hdisabled.symm.trans ht) Bool.false_ne_true
  | reset => exact .inl ⟨rfl, rfl, rfl⟩
  | illegal => exact .inl ⟨rfl, hframes, hswaps⟩
  | argument n v => exact .inl (notCounting_writeArgument n v hc)
  | extRel => exact .inl (notCounting_extRelease hc)
  | extCfg f => exact .inl (notCounting_extConfigure f hc)
  | idle | skip | complete | read | extAcq => exact .inl hc

/-- Settles O14: the two reads return their counters; and that the counters have not started holds at reset and is kept up
to the first BEGIN, so until then both reads return 0. -/
theorem diagnosticReadsReturnCounters : Obligations.DiagnosticReadsReturnCounters := by
  refine ⟨⟨⟨rfl, rfl, rfl⟩, fun s t hc hm h => specStep_notCounting hc (spec_step hm h), fun s hc hs => ?beforeBegin⟩,
    by decide, by decide, fun s hs => ⟨exec_getfc hs, exec_getsc hs⟩⟩
  case beforeBegin =>
    obtain ⟨-, hframes, hswaps⟩ := hc
    rw [exec_getfc hs, exec_getsc hs, hframes, hswaps]
    exact ⟨rfl, rfl⟩

/-! ### INIT -/

theorem profileCause_profileOf (m : Mode) : profileCause (profileOf m) = none := by cases m <;> decide

/-- A legal INIT passes `VALIDATE` and latches its mode. -/
theorem exec_init_legal {s : State} {m : Mode} {std spcc : Nat} (h : s.phase = .unconfigured ∨ s.phase = .configured)
    (hm : modeOf std spcc = some m) : exec (.init std spcc) s = .next (configure profileOf m std spcc s) := by
  have hrun : s.phase ≠ .halted := by rcases h with h | h <;> simp [h]
  have hidle : s.phase ≠ .active := by rcases h with h | h <;> simp [h]
  rw [exec, execInit, initWith, unlessHalted_of_ne hrun, if_neg hidle, hm]
  simp only [profileCause_profileOf]

/-- What INIT latches, once the plan of the mode's target is known and valid. -/
theorem configure_of_plan {m : Mode} {p : Plan} (hplan : synthPlan (targetHz m) = p) (hvalid : p.valid = true)
    (table : Mode → Profile) (std spcc : Nat) (s : State) :
    configure table m std spcc s = { s with
      std := BitVec.ofNat 1 std, spcc := BitVec.ofNat 3 spcc, profileValid := true, prof := table m, plan := p,
      phase := .configured, r0 := p.realFreq, r1 := p.d.zeroExtend 32, r2 := p.n, r3 := p.b, r4 := p.a,
      lastErr := 0 } := by
  rw [configure, hplan, if_pos hvalid]
  rfl

/-- Settles O20: each pair names a mode whose profile passes the checks, and the plan of its target is the certified one. -/
theorem initLatchesConfiguration : Obligations.InitLatchesConfiguration := by
  refine ⟨by decide, by decide, by decide, fun s h => ⟨?ntsc3, ?ntsc4, ?pal4⟩⟩
  case ntsc3 =>
    rw [exec_init_legal (m := .ntsc3) h rfl, configure_of_plan (m := .ntsc3) synthPlan_ntsc3 rfl]
    rfl
  case ntsc4 =>
    rw [exec_init_legal (m := .ntsc4) h rfl, configure_of_plan (m := .ntsc4) synthPlan_ntsc4 rfl]
    rfl
  case pal4 =>
    rw [exec_init_legal (m := .pal4) h rfl, configure_of_plan (m := .pal4) synthPlan_pal4 rfl]
    rfl

/-! ### The three cases of CS.APPLY (R142) -/

theorem oscBusy_iff {s : State} :
    oscBusy s = true ↔ s.oscFreq ≠ s.plan.realFreq ∧ s.oscFreq ≠ 0 ∧ 1 < oscRefs s := by
  simp [oscBusy, and_assoc]

theorem applyPlan_of_kept {s : State} (h : oscKept s = true) : applyPlan s = s := by simp [applyPlan, h]

theorem applyPlan_of_same {s : State} (h : s.oscFreq = s.plan.realFreq) :
    applyPlan s = s ∧ applyResult s = ⟨1, s.plan.realFreq⟩ := by
  have hkept : applyPlan s = s := applyPlan_of_kept (by simp [oscKept, h])
  have hfree : ¬ oscBusy s = true := fun hb => (oscBusy_iff.1 hb).1 h
  exact ⟨hkept, by rw [applyResult, if_neg hfree, hkept, h]⟩

theorem applyPlan_of_busy {s : State} (h : oscBusy s = true) :
    applyPlan s = s ∧ applyResult s = ⟨2, s.oscFreq⟩ := by
  have hkept : applyPlan s = s := applyPlan_of_kept (by simp [oscKept, h])
  exact ⟨hkept, by rw [applyResult, if_pos h, hkept]⟩

theorem applyPlan_of_free {s : State} (hne : s.oscFreq ≠ s.plan.realFreq) (hfree : ¬ oscBusy s = true) :
    applyPlan s = { s with
      oscFreq := s.plan.realFreq, oscPlan := ⟨s.plan.d, s.plan.n, s.plan.b, s.plan.a⟩ } ∧
    applyResult s = ⟨1, s.plan.realFreq⟩ := by
  have hset : oscKept s = false := by simp [oscKept, hne, hfree]
  simp [applyPlan, applyResult, hset, hfree]

/-! ### BEGIN -/

theorem exec_beginEngine_legal {s : State} (hp : s.phase = .configured) (hv : s.plan.valid = true) :
    exec .beginEngine s = .next (beginSteps s) := by
  have hrun : s.phase ≠ .halted := by simp [hp]
  have hidle : s.phase ≠ .active := by simp [hp]
  have hplan : ¬ (s.phase = .unconfigured ∨ s.plan.valid = false) := by simp [hp, hv]
  exact (unlessHalted_of_ne hrun _).trans ((if_neg hidle).trans (if_neg hplan))

/-- With the engine's own reference taken, the oscillator is busy when another consumer holds it at another frequency. -/
theorem oscBusy_held_iff (s : State) :
    oscBusy { s with oscHeld := true } = true ↔ s.oscFreq ≠ s.plan.realFreq ∧ s.oscFreq ≠ 0 ∧ 0 < s.oscExtRefs := by
  simp [oscBusy_iff, oscRefs, bitNat]

/-- Settles O22: BEGIN takes its reference and applies the plan, with one of the three outcomes of CS.APPLY. -/
theorem beginStartsEngine : Obligations.BeginStartsEngine := by
  intro s hp hv started
  rw [exec_beginEngine_legal hp hv, beginSteps_eq]
  refine ⟨fun hsame => ?same, fun hne hfree => ?free, fun hne h0 hrefs => ?busy⟩
  case same =>
    obtain ⟨hplan, hres⟩ := applyPlan_of_same (s := { s with oscHeld := true }) hsame
    simp only [hplan, hres]
    rfl
  case free =>
    have hnotBusy : ¬ oscBusy { s with oscHeld := true } = true := by
      rw [oscBusy_held_iff]
      rintro ⟨-, h0, hrefs⟩
      exact hfree.elim h0 hrefs.ne'
    obtain ⟨hplan, hres⟩ := applyPlan_of_free (s := { s with oscHeld := true }) hne hnotBusy
    simp only [hplan, hres]
    rfl
  case busy =>
    obtain ⟨hplan, hres⟩ := applyPlan_of_busy ((oscBusy_held_iff s).2 ⟨hne, h0, hrefs⟩)
    simp only [hplan, hres]
    rfl

end Sys2Proof.Machine
end

section
/-!
PROOFS of the exceptions family (`spec/60_exceptions.md`): IllegalCommand (R286).
-/

namespace Sys2Proof.Machine

open Sys2Proof

/-! ### A word that decodes matches a row of R104 -/

theorem matchesCommandRow_wordZ {op : Byte}
    (h : op ∈ [0x00#8, 0x02#8, 0x03#8, 0x10#8, 0x12#8, 0x13#8, 0x14#8, 0x20#8, 0x21#8]) :
    matchesCommandRow (wordZ op) := by
  refine .inl ⟨?opcode, immField_wordZ op⟩
  case opcode =>
    change opField (wordZ op) ∈ _
    rwa [opField_wordZ]

theorem matchesCommandRow_wordI (std spcc : Nat) : matchesCommandRow (wordI std spcc) := by
  obtain ⟨hop, hreserved, -, -⟩ := fields_wordI std spcc
  exact .inr (.inl ⟨hop, hreserved⟩)

theorem matchesCommandRow_wordP (row col : Nat) : matchesCommandRow (wordP row col) :=
  .inr (.inr (fields_wordP row col).1)

/-- The word of an encoded host command matches the row of its instruction; a micro-operation has no word (R107). -/
theorem matchesCommandRow_of_encode {i : Instr} {w : Word} (h : encode i = .command w) : matchesCommandRow w := by
  cases i with
  | init std spcc => cases h; exact matchesCommandRow_wordI std spcc
  | fbwr row col => cases h; exact matchesCommandRow_wordP row col
  | nop | beginEngine | teardown | getwb | commit | getfc | getsc | csCoarse | csFine =>
    cases h
    exact matchesCommandRow_wordZ (by decide)
  | lineActive | lineBlank | lineVsync | linePalsync | peEncN3 | peEncN4 | peEncP4 | seqAdvance | fbAlloc | csApply
  | csSynth => cases h

theorem decodeCommand_of_unmatched {w : Word} (h : ¬ matchesCommandRow w) : ∃ e, decodeCommand w = .error e := by
  cases hd : decodeCommand w with
  | ok i => exact absurd (matchesCommandRow_of_encode (encode_of_decodeCommand hd)) h
  | error e => exact ⟨e, rfl⟩

/-! ### The step that writes `CMD` -/

/-- A turn of a producer that is not suspended, its next statement a write to `CMD`, issues the word (R23, R80). -/
theorem step_of_writeCmd {s : State} {w : Word} {ops : List ProdOp} {rest : List Move} (hwait : s.prodWaiting = false)
    (hsched : s.sched = .producer :: rest) (hprog : s.prog = .write 0 w :: ops) :
    step s = issueCommand w { s with sched := rest, prog := ops } := by
  simp [step, nextMove, hsched, runMove, producerTurn, hwait, hprog, runStatement]

theorem issueCommand_unmatched {s : State} {w : Word} (hs : s.phase ≠ .halted) (h : ¬ matchesCommandRow w) :
    issueCommand w s = .next (raiseFatal .illegalCommand (opField w) 0 s) := by
  obtain ⟨e, he⟩ := decodeCommand_of_unmatched h
  rw [issueCommand, unlessHalted_of_ne hs, he]

/-- Settles O5: the turn issues the word, no instruction encodes to a word outside the rows, and outside HALTED the failed
decoding is the trap entry. -/
theorem unmatchedWordRaisesIllegalCommand : Obligations.UnmatchedWordRaisesIllegalCommand := by
  intro s w ops rest hs hwait hsched hprog h
  calc step s
      = issueCommand w { s with sched := rest, prog := ops } := step_of_writeCmd hwait hsched hprog
    _ = .next (raiseFatal .illegalCommand (opField w) 0 { s with sched := rest, prog := ops }) :=
        issueCommand_unmatched hs h
    _ = _ := congrArg _ (raiseFatal_eq _ rfl)

end Sys2Proof.Machine
end

section
/-!
PROOFS of the encoding statements (`spec/30_encoding.md` R100 to R108): the decoder and the encoder are inverse to each
other, and exactly the words of the opcode table decode.
-/

namespace Sys2Proof

/-! ### Decoding what the encoder writes -/

/-- A format `I` word decodes to its two fields, each cut to its eight bits (R102). -/
theorem decodeCommand_wordI (std spcc : Nat) :
    decodeCommand (wordI std spcc) = .ok (.init (std % 256) (spcc % 256)) := by
  obtain ⟨hop, hreserved, hspcc, hstd⟩ := fields_wordI std spcc
  rw [decodeCommand, hop]
  change decodeI _ = _
  rw [decodeI, if_pos hreserved, hspcc, hstd, BitVec.toNat_ofNat, BitVec.toNat_ofNat]

/-- A format `P` word decodes to its two fields, each cut to its twelve bits (R103). -/
theorem decodeCommand_wordP (row col : Nat) :
    decodeCommand (wordP row col) = .ok (.fbwr (row % 4096) (col % 4096)) := by
  obtain ⟨hop, hrow, hcol⟩ := fields_wordP row col
  rw [decodeCommand, hop]
  change decodeP _ = _
  rw [decodeP, hrow, hcol, BitVec.toNat_ofNat, BitVec.toNat_ofNat]

/-- Settles O2: the two instructions with fields come back because their fields fit; every other has one fixed form. -/
theorem decodeOfEncodeIsIdentity : Obligations.DecodeOfEncodeIsIdentity := by
  intro i hwf
  cases i with
  | init std spcc =>
    simp only [Instr.wellFormed, Bool.and_eq_true, decide_eq_true_eq] at hwf
    obtain ⟨hstd, hspcc⟩ := hwf
    rw [encode, decode, decodeCommand_wordI, Nat.mod_eq_of_lt hstd, Nat.mod_eq_of_lt hspcc]
  | fbwr row col =>
    simp only [Instr.wellFormed, Bool.and_eq_true, decide_eq_true_eq] at hwf
    obtain ⟨hrow, hcol⟩ := hwf
    rw [encode, decode, decodeCommand_wordP, Nat.mod_eq_of_lt hrow, Nat.mod_eq_of_lt hcol]
  | nop | beginEngine | teardown | getwb | commit | getfc | getsc | csCoarse | csFine => rfl
  | lineActive | lineBlank | lineVsync | linePalsync | peEncN3 | peEncN4 | peEncP4 | seqAdvance | fbAlloc | csApply
  | csSynth => rfl

/-! ### Encoding what the decoder reads -/

/-- A micro-operation code that decodes is the encoding of what it decodes to (R107). -/
theorem encode_of_decodeMicro {c : Byte} {i : Instr} (h : decodeMicro c = .ok i) : encode i = .micro c := by
  unfold decodeMicro at h
  split at h
  case h_12 => cases h
  all_goals
    cases h
    exact congrArg Encoded.micro (BitVec.eq_of_toNat_eq (Eq.symm ‹c.toNat = _›))

/-- An instruction read from a command word has fields that fit their bits. -/
theorem wellFormed_of_decodeCommand {w : Word} {i : Instr} (h : decodeCommand w = .ok i) : i.wellFormed = true := by
  have hw := encode_of_decodeCommand h
  cases i with
  | init std spcc =>
    cases hw
    rw [decodeCommand_wordI, Except.ok.injEq, Instr.init.injEq] at h
    simp only [Instr.wellFormed, Bool.and_eq_true, decide_eq_true_eq]
    omega
  | fbwr row col =>
    cases hw
    rw [decodeCommand_wordP, Except.ok.injEq, Instr.fbwr.injEq] at h
    simp only [Instr.wellFormed, Bool.and_eq_true, decide_eq_true_eq]
    omega
  | nop | beginEngine | teardown | getwb | commit | getfc | getsc | csCoarse | csFine => rfl
  | lineActive | lineBlank | lineVsync | linePalsync | peEncN3 | peEncN4 | peEncP4 | seqAdvance | fbAlloc | csApply
  | csSynth => rfl

/-- No micro-operation has a field, so each is well formed. -/
theorem wellFormed_of_encode_micro {c : Byte} {i : Instr} (h : encode i = .micro c) : i.wellFormed = true := by
  cases i with
  | init | fbwr => cases h
  | nop | beginEngine | teardown | getwb | commit | getfc | getsc | csCoarse | csFine => rfl
  | lineActive | lineBlank | lineVsync | linePalsync | peEncN3 | peEncN4 | peEncP4 | seqAdvance | fbAlloc | csApply
  | csSynth => rfl

/-- Settles O3: for each of the two written forms, the encoder gives back what the decoder read. -/
theorem encodeOfDecodeIsIdentity : Obligations.EncodeOfDecodeIsIdentity := by
  intro e i h
  cases e with
  | command w => exact ⟨encode_of_decodeCommand h, wellFormed_of_decodeCommand h⟩
  | micro c =>
    have hc := encode_of_decodeMicro h
    exact ⟨hc, wellFormed_of_encode_micro hc⟩

/-! ### Exactly the table's words decode -/

/-- Each of the nine format `Z` opcodes with immediate 0 decodes (R101, R104). -/
theorem decodeCommand_wordZ {op : Byte}
    (h : op ∈ [0x00#8, 0x02#8, 0x03#8, 0x10#8, 0x12#8, 0x13#8, 0x14#8, 0x20#8, 0x21#8]) :
    ∃ i, decodeCommand (wordZ op) = .ok i := by
  simp only [List.mem_cons, List.not_mem_nil, or_false] at h
  rcases h with rfl | rfl | rfl | rfl | rfl | rfl | rfl | rfl | rfl <;> exact ⟨_, rfl⟩

/-- A word that matches a row is the word of that row's format, with its own fields. -/
theorem decodeCommand_of_matches {w : Word} (h : matchesCommandRow w) : ∃ i, decodeCommand w = .ok i := by
  rcases h with ⟨hop, him⟩ | ⟨hop, hreserved⟩ | hop
  · have hw : wordZ (opField w) = w := by
      have happ := op_append_imm w
      rwa [show immField w = 0#24 from him] at happ
    rw [← hw]
    exact decodeCommand_wordZ hop
  · have hw : wordI (stdField w).toNat (spccField w).toNat = w := by
      have happ := init_append w
      rw [show opField w = 0x01#8 from hop, show initReservedField w = 0#8 from hreserved] at happ
      rw [wordI, BitVec.ofNat_toNat, BitVec.ofNat_toNat, BitVec.setWidth_eq, BitVec.setWidth_eq, happ]
    rw [← hw]
    exact ⟨_, decodeCommand_wordI _ _⟩
  · have hw : wordP (rowField w).toNat (colField w).toNat = w := by
      have happ := fbwr_append w
      rw [show opField w = 0x11#8 from hop] at happ
      rw [wordP, BitVec.ofNat_toNat, BitVec.ofNat_toNat, BitVec.setWidth_eq, BitVec.setWidth_eq, happ]
    rw [← hw]
    exact ⟨_, decodeCommand_wordP _ _⟩

/-- Settles O4: a word that decodes is an encoding, hence matches its row; a word that matches a row is the word of its
format. -/
theorem exactlyTableWordsDecode : Obligations.ExactlyTableWordsDecode := fun _ =>
  ⟨fun ⟨_, h⟩ => Machine.matchesCommandRow_of_encode (encode_of_decodeCommand h), decodeCommand_of_matches⟩

/-- Settles O1: every word and code is closed, so each equation is one run of the decoder. -/
theorem specWordsDecode : Obligations.SpecWordsDecode :=
  ⟨rfl, rfl, rfl, rfl, rfl, rfl, rfl, rfl, rfl, rfl, rfl, rfl, rfl, rfl, rfl, rfl, rfl⟩

end Sys2Proof
end

section
/-!
PROOFS of the facts the statements about steps share: what the moves of the agents leave unchanged, the phases before BEGIN,
and the words of a fatal error and of a report.
-/

namespace Sys2Proof.Machine

open Sys2Proof

/-! ### Frames of the shared updates -/

/-- A register write touches the argument registers only (R21, R27). -/
theorem writeArgument_frame (s : State) (n : Nat) (v : Word) :
    writeArgument s n v = { s with
      a0 := (writeArgument s n v).a0, a1 := (writeArgument s n v).a1, a2 := (writeArgument s n v).a2,
      a3 := (writeArgument s n v).a3, a4 := (writeArgument s n v).a4 } := by
  unfold writeArgument
  split <;> rfl

/-- EXT.REL touches the frequency and the other consumers' references only (R303). -/
theorem extRelease_frame (s : State) :
    extRelease s = { s with oscExtRefs := (extRelease s).oscExtRefs, oscFreq := (extRelease s).oscFreq } := by
  unfold extRelease
  split <;> rfl

/-- EXT.CFG touches the frequency only (R303). -/
theorem extConfigure_frame (f : Word) (s : State) :
    extConfigure f s = { s with oscFreq := (extConfigure f s).oscFreq } := by
  unfold extConfigure
  split_ifs <;> rfl

/-! ### The phases before BEGIN -/

theorem not_halted_of_idle {s : State} (h : s.phase = .unconfigured ∨ s.phase = .configured) : s.phase ≠ .halted := by
  rcases h with h | h <;> simp [h]

theorem not_active_of_idle {s : State} (h : s.phase = .unconfigured ∨ s.phase = .configured) : s.phase ≠ .active := by
  rcases h with h | h <;> simp [h]

/-! ### The words of a fatal error and of a report (R25, R26) -/

theorem faultWord_code (e : FatalError) (opcode : Byte) (cause : BitVec 4) :
    (faultWord e opcode cause).extractLsb' 0 4 = fatalCode e := by
  rw [faultWord, BitVec.extractLsb'_append_eq_of_add_le (by decide), BitVec.extractLsb'_eq_self]

theorem faultWord_high (e : FatalError) (opcode : Byte) (cause : BitVec 4) :
    (faultWord e opcode cause).extractLsb' 16 16 = 0#16 := by
  rw [faultWord]
  iterate 3 rw [BitVec.extractLsb'_append_eq_of_le (by decide)]
  rw [BitVec.extractLsb'_eq_self]

theorem fatalCode_legal (e : FatalError) :
    fatalCode e = 1#4 ∨ fatalCode e = 4#4 ∨ fatalCode e = 5#4 ∨ fatalCode e = 6#4 := by
  cases e <;> decide

theorem reportWord_legal (r : Report) : reportWord r = 0 ∨ reportWord r = 2 ∨ reportWord r = 3 := by
  cases r <;> decide

theorem faultWord_ne_zero (e : FatalError) (opcode : Byte) (cause : BitVec 4) : faultWord e opcode cause ≠ 0 := by
  intro h
  have hcode := faultWord_code e opcode cause
  rw [h] at hcode
  cases e <;> exact absurd hcode (by decide)

end Sys2Proof.Machine
end

section
/-!
PROOFS of the invariant (`spec/10_state.md` R28 to R46): it holds at reset, every move of the spec keeps it, and from it no
move of the spec stops (R289).
-/

namespace Sys2Proof.Machine

open Sys2Proof

/-- Settles O54: every item of the reset state is 0 or empty. -/
theorem invariantAtReset : Obligations.InvariantAtReset where
  latched := nofun
  unlatched _ := ⟨rfl, rfl, rfl, rfl⟩
  unconfiguredPhase _ := ⟨rfl, rfl⟩
  configuredPhase := nofun
  activePhase := nofun
  tickEnabled := rfl
  fbWithSb := rfl
  outWithSb := rfl
  heldWithSb := rfl
  startedConfig := nofun
  counter := nofun
  sbSize := nofun
  sbNone _ := ⟨rfl, rfl⟩
  fbNone _ := ⟨rfl, rfl⟩
  fbWf := ⟨rfl, rfl⟩
  fbRange := ⟨memInRange_nil _, memInRange_nil _⟩
  waiting := rfl
  notBoth := rfl
  waitingActive := nofun
  haltedFault := ⟨nofun, fun h => absurd rfl h⟩
  faultCode := .inl rfl
  faultHigh := by decide
  lastErrCode := .inl rfl

/-- The one-bit and three-bit fields hold every legal pair, so the latched pair has its mode (R29). -/
theorem modeOf_latched {m : Mode} {std spcc : Nat} (h : modeOf std spcc = some m) :
    modeOf (BitVec.ofNat 1 std).toNat (BitVec.ofNat 3 spcc).toNat = some m := by
  unfold modeOf at h
  split_ifs at h with h3 h4 hpal
  · obtain ⟨rfl, rfl⟩ := h3
    exact h
  · obtain ⟨rfl, rfl⟩ := h4
    exact h
  · obtain ⟨rfl, rfl⟩ := hpal
    exact h

/-! ### What the invariant gives at once -/

section
variable {s : State} (h : s.Inv)
include h

theorem State.Inv.fault_eq_zero (hp : s.phase ≠ .halted) : s.fault = 0 := by
  by_contra hf
  exact hp (h.haltedFault.2 hf)

/-- While the producer does not wait, no commit is in flight (R36, R37). -/
theorem State.Inv.no_commit (hw : s.prodWaiting = false) : s.ready = false ∧ s.wakePending = false := by
  have hsplit := h.waiting
  rw [hw] at hsplit
  exact Bool.or_eq_false_iff.1 hsplit.symm

theorem State.Inv.not_waiting (hp : s.phase ≠ .active) : s.prodWaiting = false :=
  Bool.eq_false_iff.2 fun hw => hp (h.waitingActive hw)

theorem State.Inv.not_started (hp : s.phase = .unconfigured ∨ s.phase = .configured) : s.sbValid = false :=
  hp.elim (fun hu => (h.unconfiguredPhase hu).2) (fun hc => (h.configuredPhase hc).2)

theorem State.Inv.fbOf_wf (b : Bool) : Memory.wf (fbOf s b) := by
  cases b
  · exact h.fbWf.1
  · exact h.fbWf.2

theorem State.Inv.fbOf_inRange (b : Bool) : memInRange (fbOf s b) s.prof.activeLines.toNat := by
  cases b
  · exact h.fbRange.1
  · exact h.fbRange.2

/-! ### Each shared update keeps the invariant -/

theorem State.Inv.finish (r : Report) : (Machine.finish r s).Inv :=
  { h with lastErrCode := reportWord_legal r }

/-- A fatal error of a command: the producer that issued it was not waiting (R281). -/
theorem State.Inv.raiseFatal (hw : s.prodWaiting = false) (e : FatalError) (opcode : Byte) (cause : BitVec 4) :
    (Machine.raiseFatal e opcode cause s).Inv :=
  { h with
    unconfiguredPhase := nofun
    configuredPhase := nofun
    activePhase := nofun
    tickEnabled := rfl
    waitingActive := fun hwait => absurd (hw.symm.trans hwait) Bool.false_ne_true
    haltedFault := ⟨fun _ => faultWord_ne_zero e opcode cause, fun _ => rfl⟩
    faultCode := .inr (faultWord_code e opcode cause ▸ fatalCode_legal e)
    faultHigh := faultWord_high e opcode cause }

theorem State.Inv.setFb (hv : s.sbValid = true) (b : Bool) {m : Memory} (hm : Memory.wf m)
    (hr : memInRange m s.prof.activeLines.toNat) : (Machine.setFb s b m).Inv :=
  { h with
    fbNone := fun hnone => absurd (hv.symm.trans hnone) Bool.false_ne_true.symm
    fbWf := by
      cases b
      · exact ⟨hm, h.fbWf.2⟩
      · exact ⟨h.fbWf.1, hm⟩
    fbRange := by
      cases b
      · exact ⟨hr, h.fbRange.2⟩
      · exact ⟨h.fbRange.1, hr⟩ }

theorem State.Inv.setSb {j : Bool} {l : Line} (hl : l.length = (sbOf s j).length) : (Machine.setSb s j l).Inv :=
  { h with
    sbSize := fun hv => by
      obtain ⟨h0, h1⟩ := h.sbSize hv
      cases j
      · exact ⟨hl.trans h0, h1⟩
      · exact ⟨h0, hl.trans h1⟩
    sbNone := fun hv => by
      obtain ⟨h0, h1⟩ := h.sbNone hv
      cases j
      · exact ⟨List.eq_nil_of_length_eq_zero (hl.trans (congrArg List.length h0)), h1⟩
      · exact ⟨h0, List.eq_nil_of_length_eq_zero (hl.trans (congrArg List.length h1))⟩ }

/-- SEQ.ADVANCE keeps the counter in the field, and turns a due swap into a pending wake (R194, R231). -/
theorem State.Inv.advance : (Machine.advance s).Inv := by
  rcases advance_cases s with ⟨hwithin, he⟩ | ⟨hwrap, -, he⟩ | ⟨hwrap, hready, he⟩ <;> rw [he]
  · refine { h with counter := fun hv => ?_ }
    have hc := h.counter hv
    change (BitVec.ofNat 16 (s.lineCounter.toNat + 1)).toNat < s.prof.totalLines.toNat
    rw [BitVec.toNat_ofNat]
    unfold atWrap at hwithin
    omega
  · refine { h with counter := fun _ => ?_ }
    change 0 < s.prof.totalLines.toNat
    exact hwrap ▸ Nat.succ_pos _
  · refine { h with counter := fun _ => ?_, waiting := ?_, notBoth := rfl }
    · change 0 < s.prof.totalLines.toNat
      exact hwrap ▸ Nat.succ_pos _
    · exact h.waiting.trans (by simp [hready])

/-! ### Each host command keeps the invariant -/

theorem State.Inv.configure (hp : s.phase = .unconfigured ∨ s.phase = .configured) {m : Mode} {std spcc : Nat}
    (hm : modeOf std spcc = some m) : (Machine.configure profileOf m std spcc s).Inv := by
  have hidle := not_active_of_idle hp
  have hoff := h.not_started hp
  have hfb := h.fbNone hoff
  refine State.Inv.finish (s := { s with
    std := _, spcc := _, profileValid := true, prof := profileOf m, plan := synthPlan (targetHz m), phase := .configured,
    r0 := _, r1 := _, r2 := _, r3 := _, r4 := _ }) ?_ _
  exact { h with
    latched := fun _ => ⟨m, modeOf_latched hm, rfl, rfl⟩
    unlatched := nofun
    unconfiguredPhase := nofun
    configuredPhase := fun _ => ⟨rfl, hoff⟩
    activePhase := nofun
    tickEnabled := h.tickEnabled.trans (decide_eq_false hidle)
    startedConfig := fun hv => absurd (hoff.symm.trans hv) Bool.false_ne_true
    counter := fun hv => absurd (hoff.symm.trans hv) Bool.false_ne_true
    sbSize := fun hv => absurd (hoff.symm.trans hv) Bool.false_ne_true
    fbRange := by
      change memInRange s.fb0 _ ∧ memInRange s.fb1 _
      rw [hfb.1, hfb.2]
      exact ⟨memInRange_nil _, memInRange_nil _⟩
    waitingActive := fun hw => absurd ((h.not_waiting hidle).symm.trans hw) Bool.false_ne_true
    haltedFault := ⟨nofun, fun hf => absurd (h.fault_eq_zero (not_halted_of_idle hp)) hf⟩ }

theorem State.Inv.beginSteps (hp : s.phase = .configured) (hplan : s.plan.valid = true) :
    (Machine.beginSteps s).Inv := by
  have hidle := not_active_of_idle (.inr hp)
  have hvalid := (h.configuredPhase hp).1
  rw [beginSteps_eq]
  exact { h with
    unconfiguredPhase := nofun
    configuredPhase := nofun
    activePhase := fun _ => rfl
    tickEnabled := rfl
    fbWithSb := rfl
    outWithSb := rfl
    heldWithSb := rfl
    startedConfig := fun _ => ⟨hvalid, hplan⟩
    counter := fun _ => by
      obtain ⟨m, -, hprof, -⟩ := h.latched hvalid
      change 0 < s.prof.totalLines.toNat
      rw [hprof]
      cases m <;> decide
    sbSize := fun _ => ⟨List.length_replicate, List.length_replicate⟩
    sbNone := nofun
    fbNone := nofun
    fbWf := ⟨rfl, rfl⟩
    fbRange := ⟨memInRange_nil _, memInRange_nil _⟩
    waiting := h.not_waiting hidle
    notBoth := rfl
    waitingActive := fun _ => rfl
    haltedFault := ⟨nofun, fun hf => absurd (h.fault_eq_zero (not_halted_of_idle (.inr hp))) hf⟩
    lastErrCode := by
      dsimp only
      split_ifs <;> decide }

theorem State.Inv.teardownSteps (hp : s.phase = .configured ∨ s.phase = .active) (hw : s.prodWaiting = false) :
    (Machine.teardownSteps s).Inv := by
  have hrun : s.phase ≠ .halted := by rcases hp with hp | hp <;> simp [hp]
  rw [teardownSteps_eq]
  exact { h with
    latched := nofun
    unlatched := fun _ => ⟨rfl, rfl, rfl, rfl⟩
    unconfiguredPhase := fun _ => ⟨rfl, rfl⟩
    configuredPhase := nofun
    activePhase := nofun
    tickEnabled := rfl
    fbWithSb := rfl
    outWithSb := rfl
    heldWithSb := rfl
    startedConfig := nofun
    counter := nofun
    sbSize := nofun
    sbNone := fun _ => ⟨rfl, rfl⟩
    fbNone := fun _ => ⟨rfl, rfl⟩
    fbWf := ⟨rfl, rfl⟩
    fbRange := ⟨memInRange_nil _, memInRange_nil _⟩
    waiting := hw
    notBoth := rfl
    waitingActive := fun hwait => absurd (hw.symm.trans hwait) Bool.false_ne_true
    haltedFault := ⟨nofun, fun hf => absurd (h.fault_eq_zero hrun) hf⟩
    lastErrCode := .inl rfl }

/-- Every effect of a host command keeps the invariant; the producer that issues one is not waiting (R37). -/
theorem State.Inv.command {i : Instr} {t : State} (hw : s.prodWaiting = false) (he : CommandEffect s i t) : t.Inv := by
  cases he with
  | ignored => exact h
  | fatal e opcode cause => exact h.raiseFatal hw e opcode cause
  | nop => exact h.finish .done
  | init m std spcc hp hm => exact h.configure hp hm
  | beginEngine hp hplan => exact h.beginSteps hp hplan
  | teardownIdle => exact h.finish .done
  | teardown hp => exact h.teardownSteps hp hw
  | getwb | getfc | getsc => exact { h with lastErrCode := .inl rfl }
  | csCoarse r | csFine r => exact { h.finish r with }
  | fbwr row col hp hback hrow hcol =>
    exact (h.setFb (h.activePhase hp) _ (memWf_memWrite _ _ (h.fbOf_wf _))
      (memInRange_memWrite _ (h.fbOf_inRange _) hrow hcol)).finish .done
  | commit hp => exact { h with waiting := rfl, notBoth := rfl, waitingActive := fun _ => hp }

/-- Everything a move of the spec can do keeps the invariant. -/
theorem State.Inv.specStep {t : State} (hs : SpecStep s t) : t.Inv := by
  cases hs with
  | idle => exact h
  | skip | read | extAcq => exact { h with }
  | complete _ hwait hwake =>
    have hready : s.ready = false := by simpa [hwake] using h.notBoth
    exact { h with
      waiting := by simp [completeCommit, hready]
      notBoth := Bool.and_false _
      waitingActive := nofun
      lastErrCode := .inl rfl }
  | argument n v =>
    rw [writeArgument_frame]
    exact { h with }
  | @illegal rest ops w _ hw =>
    have hissue : State.Inv { s with sched := rest, prog := ops } := { h with }
    exact hissue.raiseFatal hw _ _ _
  | @command rest ops t w i _ hw _ _ _ he =>
    have hissue : State.Inv { s with sched := rest, prog := ops } := { h with }
    exact hissue.command hw he
  | @tick rest l _ _ hl =>
    have hdrained : (drained { s with sched := rest }).Inv := { h with }
    have hfilled : State.Inv { Machine.setSb (drained { s with sched := rest }) s.fillSel l with fillSel := !s.fillSel } :=
      { hdrained.setSb hl with }
    exact hfilled.advance
  | extRel =>
    rw [extRelease_frame]
    exact { h with }
  | extCfg f =>
    rw [extConfigure_frame]
    exact { h with }
  | reset => exact { invariantAtReset with }

end

/-- Settles O55: a move of the spec is one of the effects of `SpecStep`, each of which keeps the invariant. -/
theorem invariantKept : Obligations.InvariantKept := fun _ _ h hm hstep => h.specStep (spec_step hm hstep)

/-! ### No move of the spec stops -/

/-- The result is a next state. -/
def Completes (o : Result) : Prop := ∃ t, o = .next t

theorem completes_unlessHalted {s : State} {k : Result} (h : s.phase ≠ .halted → Completes k) :
    Completes (unlessHalted s k) := by
  unfold unlessHalted
  split
  · exact ⟨_, rfl⟩
  · exact h ‹_›

theorem completes_requireActive {s : State} {opcode : Byte} {k : Result} (h : s.phase = .active → Completes k) :
    Completes (requireActive opcode s k) := by
  unfold requireActive
  split
  · exact h ‹_›
  · exact ⟨_, rfl⟩

theorem storePixel_of_exists {h : Bool} {row col : Nat} {v : Byte} {s : State} (hr : fbRowExists s row = true) :
    storePixel h row col v s = .next (setFb s h (memWrite (fbOf s h) (fbIndex row col) v)) := if_pos hr

/-- FBWR's store reaches an existing row: in ACTIVE the buffers exist, and the bounds check has passed (R224, R42). -/
theorem State.Inv.completes_execFbwr {s : State} (h : s.Inv) (row col : Nat) : Completes (execFbwr row col s) := by
  refine completes_unlessHalted fun _ => completes_requireActive fun hp => ?_
  split
  · exact ⟨_, rfl⟩
  · split
    · exact ⟨_, rfl⟩
    · have hrow : fbRowExists s row = true :=
        fbRowExists_iff.2 ⟨h.fbWithSb.trans (h.activePhase hp), by omega⟩
      rw [storePixel_of_exists hrow]
      exact ⟨_, rfl⟩

/-- No host command stops: only FBWR reaches an element at all. -/
theorem State.Inv.completes_exec {s : State} (h : s.Inv) {i : Instr} (hi : isMicroOp i = false) :
    Completes (exec i s) := by
  cases i with
  | fbwr row col => exact h.completes_execFbwr row col
  | nop | getfc | getsc => exact completes_unlessHalted fun _ => ⟨_, rfl⟩
  | getwb | commit => exact completes_unlessHalted fun _ => completes_requireActive fun _ => ⟨_, rfl⟩
  | init std spcc =>
    refine completes_unlessHalted fun _ => ?_
    split
    · exact ⟨_, rfl⟩
    · split
      · exact ⟨_, rfl⟩
      · split <;> exact ⟨_, rfl⟩
  | beginEngine =>
    refine completes_unlessHalted fun _ => ?_
    split_ifs <;> exact ⟨_, rfl⟩
  | teardown | csFine =>
    refine completes_unlessHalted fun _ => ?_
    split <;> exact ⟨_, rfl⟩
  | csCoarse =>
    refine completes_unlessHalted fun _ => ?_
    split <;> exact ⟨_, rfl⟩
  | lineActive | lineBlank | lineVsync | linePalsync | peEncN3 | peEncN4 | peEncP4 | seqAdvance | fbAlloc | csApply
  | csSynth => exact absurd hi (by decide)

theorem State.Inv.completes_issueCommand {s : State} (h : s.Inv) (w : Word) : Completes (issueCommand w s) := by
  refine completes_unlessHalted fun _ => ?_
  split
  · exact h.completes_exec (isMicroOp_of_decodeCommand ‹_›)
  · exact ⟨_, rfl⟩

theorem State.Inv.completes_producerTurn {s : State} (h : s.Inv) : Completes (producerTurn s) := by
  unfold producerTurn
  split
  · exact ⟨_, rfl⟩
  · split
    · exact ⟨_, rfl⟩
    · rename_i op ops _
      have hissue : State.Inv { s with prog := ops } := { h with }
      cases op with
      | read n => exact ⟨_, rfl⟩
      | write n v =>
        simp only [runStatement]
        split
        · exact hissue.completes_issueCommand v
        · exact ⟨_, rfl⟩

theorem State.Inv.completes_lineEvent {s : State} (h : s.Inv) : Completes (lineEvent s) := by
  by_cases ht : s.tickEnable = true
  · obtain ⟨l, -, -, hevent⟩ := lineEvent_completes h ht
    exact ⟨_, hevent⟩
  · exact ⟨s, if_neg ht⟩

/-- Settles O56: of the moves of the spec only the producer's and the tick reach elements, and the invariant says that
they exist. -/
theorem specMovesNeverStop : Obligations.SpecMovesNeverStop := by
  intro s h hm
  rw [step, nextMove]
  split
  · exact ⟨_, rfl⟩
  · rename_i m rest hs
    have hturn := h.setSched rest
    cases m with
    | producer => exact hturn.completes_producerTurn
    | tick => exact hturn.completes_lineEvent
    | extAcq | extRel | extCfg | reset => exact ⟨_, rfl⟩
    | micro => simp [State.specMove, hs] at hm

end Sys2Proof.Machine
end

section
/-!
PROOFS that every step, a `micro` move included, keeps the frame-buffer memories canonical (`spec/20_memory.md` R71, log 16).
-/

namespace Sys2Proof.Machine

open Sys2Proof

/-! ### The steps that are no moves of the spec -/

/-- A micro-operation code decodes to a micro-operation, never to a host command (R107). -/
theorem isMicroOp_of_decodeMicro {c : Byte} {i : Instr} (h : decodeMicro c = .ok i) : isMicroOp i = true := by
  unfold decodeMicro at h
  split at h
  case h_12 => cases h
  all_goals
    cases h
    rfl

theorem step_micro {s : State} {c : Byte} {u : MicroOperands} {i : Instr} {rest : List Move}
    (hs : s.sched = .micro c u :: rest) (hd : decodeMicro c = .ok i) :
    step s = exec i { s with sched := rest, uop := u } := by
  simp [step, nextMove, hs, runMove, runMicro, hd]

/-- A step that is no move of the spec and answers a next state runs one micro-operation alone (log 3). -/
theorem micro_step {s t : State} (hm : s.specMove = false) (h : step s = .next t) :
    ∃ c u i rest, s.sched = .micro c u :: rest ∧ decodeMicro c = .ok i ∧
      exec i { s with sched := rest, uop := u } = .next t := by
  unfold State.specMove at hm
  split at hm
  · rename_i c u rest hs
    cases hd : decodeMicro c with
    | ok i => exact ⟨c, u, i, rest, hs, hd, (step_micro hs hd).symm.trans h⟩
    | error e =>
      rw [step, nextMove, hs] at h
      simp [runMove, runMicro, hd] at h
  · cases hm

/-! ### The canonical form -/

/-- Both frame-buffer memories are in canonical form. -/
def FramesWf (s : State) : Prop := Memory.wf s.fb0 ∧ Memory.wf s.fb1

section
variable {s t : State} (h : FramesWf s)
include h

theorem FramesWf.fbOf (b : Bool) : Memory.wf (fbOf s b) := by
  cases b
  · exact h.1
  · exact h.2

theorem FramesWf.setFb (b : Bool) {m : Memory} (hm : Memory.wf m) : FramesWf (setFb s b m) := by
  cases b
  · exact ⟨hm, h.2⟩
  · exact ⟨h.1, hm⟩

/-- Of the host commands FBWR stores one element, BEGIN and TEARDOWN empty both memories, and no other touches them. -/
theorem FramesWf.command {i : Instr} (he : CommandEffect s i t) : FramesWf t := by
  cases he with
  | beginEngine =>
    rw [beginSteps_eq]
    exact ⟨rfl, rfl⟩
  | teardown =>
    rw [teardownSteps_eq]
    exact ⟨rfl, rfl⟩
  | fbwr row col => exact h.setFb _ (memWf_memWrite _ _ (h.fbOf _))
  | ignored | fatal | nop | init | teardownIdle | getwb | commit | getfc | getsc | csCoarse | csFine => exact h

/-- Of the micro-operations FB.ALLOC empties one memory, and no other touches them. -/
theorem FramesWf.micro {i : Instr} (hi : isMicroOp i = true) (he : exec i s = .next t) : FramesWf t := by
  have hfill : ∀ {j : Bool} {k : State → Result}, OnlySb j k → k s = .next t → FramesWf t := by
    intro j k hk ht
    obtain ⟨l, rfl, -⟩ := hk s t ht
    exact h
  cases i with
  | lineActive => exact hfill (onlySb_lineActive _ _ _) he
  | lineBlank => exact hfill (onlySb_lineBlank _) he
  | lineVsync => exact hfill (onlySb_lineVsync _) he
  | linePalsync => exact hfill (onlySb_linePalsync _ _) he
  | peEncN3 | peEncN4 | peEncP4 =>
    obtain ⟨l, rfl, -⟩ := encodeRow_frame he
    exact h
  | seqAdvance =>
    cases he
    rw [advance_frame]
    exact h
  | fbAlloc =>
    cases he
    exact h.setFb _ rfl
  | csApply | csSynth =>
    cases he
    exact h
  | nop | init | beginEngine | teardown | getwb | fbwr | commit | getfc | getsc | csCoarse | csFine =>
    exact absurd hi Bool.false_ne_true

theorem FramesWf.specStep (hs : SpecStep s t) : FramesWf t := by
  cases hs with
  | @command rest ops t w i _ _ _ _ _ he =>
    have hissue : FramesWf { s with sched := rest, prog := ops } := h
    exact hissue.command he
  | argument n v =>
    rw [writeArgument_frame]
    exact h
  | tick l =>
    rw [advance_frame]
    exact h
  | extRel =>
    rw [extRelease_frame]
    exact h
  | extCfg f =>
    rw [extConfigure_frame]
    exact h
  | reset => exact ⟨rfl, rfl⟩
  | idle | skip | complete | read | illegal | extAcq => exact h

end

/-- Settles O53: only a store, an allocation and a release reach a memory, and an empty memory is canonical. -/
theorem frameMemoryStaysCanonical : Obligations.FrameMemoryStaysCanonical := by
  intro s t h0 h1 hstep
  have h : FramesWf s := ⟨h0, h1⟩
  cases hm : s.specMove with
  | true => exact h.specStep (spec_step hm hstep)
  | false =>
    obtain ⟨c, u, i, rest, -, hd, he⟩ := micro_step hm hstep
    have hturn : FramesWf { s with sched := rest, uop := u } := h
    exact hturn.micro (isMicroOp_of_decodeMicro hd) he

end Sys2Proof.Machine
end

section
/-!
PROOFS of the two statements on the fine search (`spec/40_clock_synthesizer.md`): the failure sentinel (R138) and the error
bound (R139).
-/

namespace Sys2Proof.Machine

open Sys2Proof

/-! ### What the fine search answers -/

/-- The coefficients of a fine search that carries (R136). -/
def carryResult (src t : Nat) : FineResult := ⟨src * 2 / ((src / t + 1) * 2 + 0), src / t + 1, 0, 2⟩

/-- The coefficients of a fine search that keeps denominator `a` (R137). -/
def scanResult (src t a : Nat) : FineResult :=
  ⟨src * a / (src / t * a + nearestNumerator (src % t) t a), src / t, nearestNumerator (src % t) t a, a⟩

/-- Everything the fine search can answer. -/
theorem fine_cases (src t dmax lo hi : Nat) :
    fine src t dmax lo hi = FineResult.failed ∨
    (0 < t ∧ 3 ≤ dmax ∧ carries (src % t) t dmax = true ∧ fine src t dmax lo hi = carryResult src t) ∨
    (0 < t ∧ 3 ≤ dmax ∧ src / t ≠ 0 ∧
      fine src t dmax lo hi = scanResult src t (scanDenominator (src % t) t dmax)) := by
  by_cases h0 : t = 0 ∨ dmax < 3
  · exact .inl (fine_of_infeasible h0)
  · have hpos : 0 < t ∧ 3 ≤ dmax := by omega
    cases hc : carries (src % t) t dmax with
    | true =>
      rw [fine_of_carries h0 hc]
      by_cases hr : lo ≤ src / t + 1 ∧ src / t + 1 < hi ∧ src / t + 1 ≠ 0
      · exact .inr (.inl ⟨hpos.1, hpos.2, rfl, fineFinish_of_inRange hr⟩)
      · exact .inl (fineFinish_of_not_inRange hr)
    | false =>
      rw [fine_of_scan h0 rfl rfl hc rfl]
      by_cases hr : lo ≤ src / t ∧ src / t < hi ∧ src / t ≠ 0
      · exact .inr (.inr ⟨hpos.1, hpos.2, hr.2.2, fineFinish_of_inRange hr⟩)
      · exact .inl (fineFinish_of_not_inRange hr)

/-- With both possible integer parts in range the search does not fail (R138). -/
theorem fine_n_ne_zero {src t dmax lo hi : Nat} (ht : 0 < t) (hd : 3 ≤ dmax) (hlo : lo ≤ src / t)
    (hhi : src / t + 1 < hi) (hn : src / t ≠ 0) : (fine src t dmax lo hi).n ≠ 0 := by
  cases hc : carries (src % t) t dmax with
  | true =>
    rw [fine_of_carries (by omega) hc, fineFinish_of_inRange ⟨by omega, hhi, by omega⟩]
    exact Nat.succ_ne_zero _
  | false =>
    rw [fine_of_scan (by omega) rfl rfl hc rfl, fineFinish_of_inRange ⟨hlo, by omega, hn⟩]
    exact hn

/-! ### The sentinel (R138) -/

/-- The nearest numerator of a ratio below 1 does not exceed the denominator. -/
theorem nearestNumerator_le {r t c : Nat} (hr : r < t) : nearestNumerator r t c ≤ c := by
  obtain ⟨hlo, -⟩ := nearestNumerator_bounds r c (Nat.zero_lt_of_lt hr)
  by_contra hcon
  have hstep := Nat.mul_le_mul_left t (show c + 1 ≤ nearestNumerator r t c by omega)
  have hratio := Nat.mul_le_mul_right c hr.le
  rw [Nat.mul_add] at hstep
  omega

/-- A carry needs a remainder, so the target exceeds 1 and the integer part taken does not exceed the source. -/
theorem le_src_of_carries {src t dmax : Nat} (ht : 0 < t) (hc : carries (src % t) t dmax = true) :
    src / t + 1 ≤ src := by
  have hsplit := Nat.div_add_mod src t
  have hr : 0 < src % t := by
    by_contra hcon
    rw [carries_iff, Nat.eq_zero_of_not_pos hcon] at hc
    omega
  have hn := Nat.le_mul_of_pos_left (src / t) ht
  omega

/-- The ratio the scan answers does not exceed the source: for target 1 there is no fraction, and from 2 on there is room
for a whole unit. -/
theorem scan_le_src {src t a : Nat} (ht : 0 < t) (hn : src / t ≠ 0) :
    src / t * a + nearestNumerator (src % t) t a ≤ src * a := by
  rcases Nat.lt_or_ge 1 t with ht1 | ht1
  · have hroom : src / t + 1 ≤ src := by
      have hsplit := Nat.div_add_mod src t
      have hdouble := Nat.mul_le_mul_right (src / t) ht1
      omega
    calc src / t * a + nearestNumerator (src % t) t a
        ≤ src / t * a + a := Nat.add_le_add_left (nearestNumerator_le (Nat.mod_lt src ht)) _
      _ = (src / t + 1) * a := (Nat.succ_mul _ _).symm
      _ ≤ src * a := Nat.mul_le_mul_right a hroom
  · obtain rfl : t = 1 := by omega
    simp [Nat.mod_one, nearestNumerator]

/-- Settles O30: of the three things the fine search can answer, failure has both 0, and each success reconstructs a
frequency of at least 1. -/
theorem fineSentinelIsSafe : Obligations.FineSentinelIsSafe := by
  intro src t dmax lo hi
  rcases fine_cases src t dmax lo hi with h | ⟨ht, -, hc, h⟩ | ⟨ht, hd, hn, h⟩ <;> rw [h]
  · exact Iff.rfl
  · have hle := le_src_of_carries ht hc
    have hf : 0 < (carryResult src t).f := Nat.div_pos (by omega) (by positivity)
    exact ⟨fun h0 => absurd h0 hf.ne', fun h0 => absurd h0 (Nat.succ_ne_zero _)⟩
  · obtain ⟨ha, -⟩ := scanDenominator_spec (src % t) t hd
    have hpos : 0 < src / t * scanDenominator (src % t) t dmax := Nat.mul_pos (Nat.pos_of_ne_zero hn) (by omega)
    have hf : 0 < (scanResult src t (scanDenominator (src % t) t dmax)).f :=
      Nat.div_pos (scan_le_src ht hn) (by omega)
    exact ⟨fun h0 => absurd h0 hf.ne', fun h0 => absurd h0 hn⟩

/-! ### The error bound (R139) -/

/-- Dirichlet's approximation theorem for the error of the fine search: some denominator up to `n` has an error of at most
`t/(n+1)`. -/
theorem exists_fineError_le (r : Nat) {t n : Nat} (ht : 0 < t) (hn : 0 < n) :
    ∃ c, 0 < c ∧ c ≤ n ∧ fineError r t c * (n + 1) ≤ t := by
  obtain ⟨c, hc, hcn, hround⟩ := Real.exists_nat_abs_mul_sub_round_le ((r : ℝ) / t) hn
  refine ⟨c, hc, hcn, ?_⟩
  have ht' : (0 : ℝ) < t := Nat.cast_pos.2 ht
  have hn' : (0 : ℝ) < (n : ℝ) + 1 := by positivity
  obtain ⟨b, hb⟩ := Int.eq_ofNat_of_zero_le (a := round ((c : ℝ) * (r / t))) (by
    rw [round_eq]
    exact Int.floor_nonneg.2 (by positivity))
  rw [hb, le_div_iff₀ hn'] at hround
  have herr : (absDiff (t * b) (r * c) : ℝ) = t * |(c : ℝ) * (r / t) - b| := by
    have hcast := congrArg (Int.cast (R := ℝ)) (absDiff_cast (t * b) (r * c))
    push_cast at hcast
    rw [hcast, abs_sub_comm, ← abs_of_pos ht', ← abs_mul, abs_of_pos ht']
    congr 1
    field_simp
  have hreal : (absDiff (t * b) (r * c) : ℝ) * ((n : ℝ) + 1) ≤ t := by
    rw [herr, mul_assoc]
    exact mul_le_of_le_one_right ht'.le (by simpa using hround)
  exact (Nat.mul_le_mul_right _ (fineError_le r c b ht)).trans (by exact_mod_cast hreal)

/-- Doubling the denominator at most doubles the error. -/
theorem fineError_double (r c : Nat) {t : Nat} (ht : 0 < t) : fineError r t (2 * c) ≤ 2 * fineError r t c := by
  refine (fineError_le r (2 * c) (2 * nearestNumerator r t c) ht).trans_eq ?_
  have hb : t * (2 * nearestNumerator r t c) = 2 * (t * nearestNumerator r t c) := by ring
  have hc : r * (2 * c) = 2 * (r * c) := by ring
  unfold fineError absDiff
  rw [hb, hc]
  omega

/-- The error of the denominator the scan keeps. Dirichlet's denominator is a candidate, unless it is 1, and then 2 is. -/
theorem fineError_scanDenominator (r : Nat) {t dmax : Nat} (ht : 0 < t) (hd : 3 ≤ dmax) :
    fineError r t (scanDenominator r t dmax) * dmax ≤ 2 * t := by
  obtain ⟨c, hc, hcn, herr⟩ := exists_fineError_le r ht (n := dmax - 1) (by omega)
  rw [Nat.sub_add_cancel (by omega)] at herr
  obtain ⟨-, -, hleast, -⟩ := scanDenominator_spec r t hd
  have hle : fineError r t (scanDenominator r t dmax) ≤ 2 * fineError r t c := by
    rcases Nat.lt_or_ge 1 c with h1 | h1
    · have := hleast c h1 (by omega)
      omega
    · obtain rfl : c = 1 := by omega
      exact (hleast 2 (Nat.le_refl 2) hd).trans (fineError_double r 1 ht)
  calc fineError r t (scanDenominator r t dmax) * dmax
      ≤ 2 * fineError r t c * dmax := Nat.mul_le_mul_right dmax hle
    _ = 2 * (fineError r t c * dmax) := Nat.mul_assoc ..
    _ ≤ 2 * t := Nat.mul_le_mul_left 2 herr

/-- Settles O31: a carry is taken only within half of the bound of the next integer; without one the error of the scan's
denominator, at least 2, is within it. -/
theorem fineErrorBound : Obligations.FineErrorBound := by
  intro src t dmax lo hi q hf
  have hsplit := Nat.div_add_mod src t
  rcases fine_cases src t dmax lo hi with h | ⟨ht, hd, hc, h⟩ | ⟨ht, hd, -, h⟩
  · exact absurd (congrArg FineResult.f h) hf
  · rw [show q = carryResult src t from h]
    have hr := Nat.mod_lt src ht
    have hgap : absDiff (src * 2) (t * ((src / t + 1) * 2 + 0)) = 2 * (t - src % t) := by
      have he : t * ((src / t + 1) * 2 + 0) = 2 * (t * (src / t)) + 2 * t := by ring
      unfold absDiff
      omega
    have hcarry : 2 * (dmax - 1) * (t - src % t) < t := by
      rw [carries_iff, Nat.sub_mul] at hc
      rw [Nat.mul_sub]
      have := Nat.le_mul_of_pos_left t (show 0 < 2 * (dmax - 1) by omega)
      omega
    change absDiff (src * 2) (t * ((src / t + 1) * 2 + 0)) * (dmax - 1) < t * 2
    rw [hgap, Nat.mul_right_comm]
    omega
  · rw [show q = scanResult src t (scanDenominator (src % t) t dmax) from h]
    obtain ⟨ha, -⟩ := scanDenominator_spec (src % t) t hd
    have herr := fineError_scanDenominator (src % t) ht hd
    generalize hA : scanDenominator (src % t) t dmax = a at ha herr
    have hgap : absDiff (src * a) (t * (src / t * a + nearestNumerator (src % t) t a)) = fineError (src % t) t a := by
      have hs : src * a = t * (src / t * a) + src % t * a := by
        rw [← Nat.mul_assoc, ← Nat.add_mul, hsplit]
      unfold fineError absDiff
      rw [hs, Nat.mul_add]
      omega
    change absDiff (src * a) (t * (src / t * a + nearestNumerator (src % t) t a)) * (dmax - 1) < t * a
    rw [hgap]
    have hwide : t * 2 ≤ t * a := Nat.mul_le_mul_left t ha
    rcases Nat.eq_zero_or_pos (fineError (src % t) t a) with h0 | hpos
    · rw [h0, Nat.zero_mul]
      omega
    · have hlt : fineError (src % t) t a * (dmax - 1) < fineError (src % t) t a * dmax :=
        Nat.mul_lt_mul_of_pos_left (by omega) hpos
      omega

end Sys2Proof.Machine
end

section
/-!
PROOFS of the statements on CS.SYNTH, CS.APPLY and the shared oscillator (`spec/40_clock_synthesizer.md` R140, R142, R143,
`spec/60_exceptions.md` R303).
-/

namespace Sys2Proof.Machine

open Sys2Proof

/-! ### CS.SYNTH -/

theorem exec_csSynth (s : State) : exec .csSynth s = .next { s with plan := synthPlan s.uop.target.toNat } := rfl

theorem synthPlan_of_none {t : Nat} (h : coarse t = none) : synthPlan t = failedPlan t := by
  simp only [synthPlan, h]

/-- The plan of a target whose coarse and fine search both succeed (R140). -/
theorem synthPlan_of_some {t d : Nat} {q : FineResult} (h : coarse t = some d)
    (hq : fine (t * ratioK d) Config.fRef Config.fracD Config.mulMin Config.mulMax = q) (hf : q.f ≠ 0) :
    synthPlan t =
      ⟨true, BitVec.ofNat 32 t, BitVec.ofNat 8 d, BitVec.ofNat 32 q.n, BitVec.ofNat 32 q.b, BitVec.ofNat 32 q.a,
        BitVec.ofNat 32 (Config.fRef * (q.n * q.a + q.b) / (q.a * ratioK d))⟩ := by
  simp only [synthPlan, h, hq, if_neg hf]

/-- A multiplied frequency in the band is 8 to 12 times the fixed oscillator, well inside the multiplier range, so the fine
search of a target the coarse search accepts does not fail (R140, log 9). -/
theorem fine_of_coarse {t d : Nat} (h : coarse t = some d) : (fine (t * (2 * (d + 2))) 40000000 65536 4 68).f ≠ 0 := by
  obtain ⟨-, -, hband, -⟩ := coarse_eq_some.1 h
  obtain ⟨hmin, hmax⟩ := inBand_iff.1 hband
  rw [Ne, fineSentinelIsSafe]
  exact fine_n_ne_zero (by omega) (by omega) (by omega) (by omega) (by omega)

/-- Settles O32: the plan is that of a failed coarse search, or that of two successful searches. -/
theorem synthWritesPlan : Obligations.SynthWritesPlan := by
  intro s t
  rw [exec_csSynth]
  refine ⟨fun h => ?failed, fun d h => ⟨fine_of_coarse h, ?found⟩⟩
  case failed =>
    rw [synthPlan_of_none h, failedPlan, BitVec.ofNat_toNat, BitVec.setWidth_eq]
    rfl
  case found =>
    rw [synthPlan_of_some h rfl (fine_of_coarse h), BitVec.ofNat_toNat, BitVec.setWidth_eq]
    rfl

/-! ### CS.APPLY -/

theorem exec_csApply (s : State) : exec .csApply s = .next { applyPlan s with uopResult := applyResult s } := rfl

/-- Settles O34: the same frequency, a busy resource, and a free one are the three cases of CS.APPLY. -/
theorem applyPlanCases : Obligations.ApplyPlanCases := by
  intro s f refs
  rw [exec_csApply]
  refine ⟨fun hsame => ?same, fun hne h0 hrefs => ?busy, fun hne hfree => ?free⟩
  case same =>
    obtain ⟨hplan, hres⟩ := applyPlan_of_same hsame
    rw [hplan, hres]
  case busy =>
    obtain ⟨hplan, hres⟩ := applyPlan_of_busy (oscBusy_iff.2 ⟨hne, h0, hrefs⟩)
    rw [hplan, hres]
  case free =>
    have hnotBusy : ¬ oscBusy s = true := by
      rw [oscBusy_iff]
      rintro ⟨-, h0, hrefs⟩
      exact hfree.elim h0 (Nat.not_le.2 hrefs)
    obtain ⟨hplan, hres⟩ := applyPlan_of_free hne hnotBusy
    rw [hplan, hres]

/-! ### The moves of the other consumers (R303) -/

theorem extRelease_of_none {s : State} (h : s.oscExtRefs = 0) : extRelease s = s := if_pos h

/-- The last reference given up unconfigures the resource. -/
theorem extRelease_last {s : State} (h : s.oscExtRefs = 1) (hheld : s.oscHeld = false) :
    extRelease s = { s with oscExtRefs := 0, oscFreq := 0 } := by
  simp [extRelease, h, hheld]

/-- While a reference remains, EXT.REL leaves the frequency. -/
theorem extRelease_shared {s : State} (h : 1 < s.oscExtRefs ∨ s.oscExtRefs = 1 ∧ s.oscHeld = true) :
    extRelease s = { s with oscExtRefs := s.oscExtRefs - 1 } := by
  have hsome : s.oscExtRefs ≠ 0 := by omega
  have hremains : ¬ (s.oscExtRefs - 1 = 0 ∧ s.oscHeld = false) := by
    rintro ⟨h1, hheld⟩
    rcases h with h | ⟨-, h⟩
    · omega
    · exact Bool.false_ne_true (hheld.symm.trans h)
  rw [extRelease, if_neg hsome, if_neg hremains]

theorem extConfigure_of_disabled {f : Word} {s : State} (h : s.oscExtRefs = 0 ∨ f = 0 ∨ s.oscFreq = f) :
    extConfigure f s = s := by
  unfold extConfigure
  split_ifs with h0 h1
  · rfl
  · rfl
  · rfl
  · exact absurd h (by tauto)

theorem one_lt_oscRefs_iff {s : State} (h : 0 < s.oscExtRefs) :
    1 < oscRefs s ↔ 1 < s.oscExtRefs ∨ s.oscExtRefs = 1 ∧ s.oscHeld = true := by
  cases hheld : s.oscHeld with
  | false => simp [oscRefs, bitNat, hheld]
  | true =>
    simp only [oscRefs, bitNat, hheld]
    simp
    omega

/-- A configured resource held by more than one is left alone. -/
theorem extConfigure_of_busy {f : Word} {s : State} (h0 : s.oscFreq ≠ 0) (h : 1 < oscRefs s) : extConfigure f s = s := by
  unfold extConfigure
  split_ifs with h1 h2 h3
  · rfl
  · rfl
  · rfl
  · exact absurd ⟨h0, h⟩ h3

theorem extConfigure_of_free {f : Word} {s : State} (hrefs : s.oscExtRefs ≠ 0) (hf : f ≠ 0)
    (h : s.oscFreq = 0 ∨ ¬ 1 < oscRefs s) : extConfigure f s = { s with oscFreq := f } := by
  unfold extConfigure
  split_ifs with h1 h2 h3
  · exact absurd h1 (by tauto)
  · rw [← h2]
  · exact absurd h3 (by tauto)
  · rfl

/-- Settles O36: EXT.ACQ, the three cases of EXT.REL, and the disabled, busy and free cases of EXT.CFG. -/
theorem oscillatorConsumerMoves : Obligations.OscillatorConsumerMoves := by
  intro s rest s'
  refine ⟨fun hs => ?acquire, fun hs => ?release, fun f hs => ?configure⟩
  case acquire =>
    rw [step, nextMove, hs]
    rfl
  case release =>
    have hstep : step s = .next (extRelease s') := by
      rw [step, nextMove, hs]
      rfl
    rw [hstep]
    exact ⟨fun h => congrArg _ (extRelease_of_none h), fun h hheld => congrArg _ (extRelease_last h hheld),
      fun h => congrArg _ (extRelease_shared (s := s') h)⟩
  case configure =>
    have hstep : step s = .next (extConfigure f s') := by
      rw [step, nextMove, hs]
      rfl
    rw [hstep]
    refine ⟨fun h => congrArg _ (extConfigure_of_disabled h), fun h0 h => congrArg _ ?_, fun h0 hf h => congrArg _ ?_⟩
    · exact extConfigure_of_busy h0 ((one_lt_oscRefs_iff (s := s') (by change 0 < s.oscExtRefs; omega)).2 h)
    · refine extConfigure_of_free h0.ne' hf (h.imp_right fun ⟨h1, hheld⟩ hshared => ?_)
      rcases (one_lt_oscRefs_iff (s := s') h0).1 hshared with h2 | ⟨-, h2⟩
      · exact absurd h2 (by simp [s', h1])
      · exact Bool.false_ne_true (hheld.symm.trans h2)

/-! ### The applied frequency (R143) -/

/-- In ACTIVE a host command drops the reference or leaves the resource and the plan alone; in HALTED it is ignored. -/
theorem command_keeps_frequency {s t : State} {i : Instr} (hp : s.phase = .active ∨ s.phase = .halted)
    (he : CommandEffect s i t) : t.oscHeld = false ∨ (t.oscFreq = s.oscFreq ∧ t.plan = s.plan) := by
  cases he with
  | init m std spcc h => rcases hp with hp | hp <;> simp [hp] at h
  | beginEngine h => rcases hp with hp | hp <;> simp [hp] at h
  | teardown =>
    rw [teardownSteps_eq]
    exact .inl rfl
  | ignored | fatal | nop | teardownIdle | getwb | fbwr | commit | getfc | getsc | csCoarse | csFine =>
    exact .inr ⟨rfl, rfl⟩

/-- While the block keeps its reference at a configured frequency, the other consumers' moves leave the frequency: their
last release does not unconfigure the resource, and their EXT.CFG finds it busy. -/
theorem extRelease_oscFreq_of_held {s : State} (h : s.oscHeld = true) : (extRelease s).oscFreq = s.oscFreq := by
  unfold extRelease
  split
  · rfl
  · simp [h]

theorem extConfigure_of_held {s : State} (h : s.oscHeld = true) (h0 : s.oscFreq ≠ 0) (f : Word) :
    extConfigure f s = s := by
  rcases Nat.eq_zero_or_pos s.oscExtRefs with hr | hr
  · exact extConfigure_of_disabled (.inl hr)
  · have hsome : s.oscExtRefs = 1 ∨ 1 < s.oscExtRefs := by omega
    exact extConfigure_of_busy h0 ((one_lt_oscRefs_iff hr).2 (hsome.symm.imp_right fun h1 => ⟨h1, h⟩))

theorem specStep_keeps_frequency {s t : State} (hp : s.phase = .active ∨ s.phase = .halted) (hheld : s.oscHeld = true)
    (h0 : s.oscFreq ≠ 0) (hs : SpecStep s t) : t.oscHeld = false ∨ (t.oscFreq = s.oscFreq ∧ t.plan = s.plan) := by
  cases hs with
  | @command rest ops t w i _ _ _ _ _ he =>
    exact command_keeps_frequency (s := { s with sched := rest, prog := ops }) hp he
  | argument n v =>
    rw [writeArgument_frame]
    exact .inr ⟨rfl, rfl⟩
  | tick l =>
    rw [advance_frame]
    exact .inr ⟨rfl, rfl⟩
  | @extRel rest =>
    refine .inr ⟨extRelease_oscFreq_of_held (s := { s with sched := rest }) hheld, ?_⟩
    rw [extRelease_frame]
  | @extCfg rest f =>
    rw [extConfigure_of_held (s := { s with sched := rest }) hheld h0]
    exact .inr ⟨rfl, rfl⟩
  | reset => exact .inl rfl
  | idle | skip | complete | read | illegal | extAcq => exact .inr ⟨rfl, rfl⟩

/-- Settles O35: the reference stands and falls with the sample buffers, which an engine not started does not have; and of
the moves of the spec only those that drop the reference touch a frequency in force. -/
theorem appliedFrequencyHolds : Obligations.AppliedFrequencyHolds := by
  refine ⟨fun s h hheld => ?phase, fun s t hp hheld hf hsame hm hstep ht => ?keeps⟩
  case phase =>
    have hstarted : s.sbValid = true := h.heldWithSb.symm.trans hheld
    cases hp : s.phase with
    | active => exact .inl rfl
    | halted => exact .inr rfl
    | unconfigured => exact absurd ((h.not_started (.inl hp)).symm.trans hstarted) Bool.false_ne_true
    | configured => exact absurd ((h.not_started (.inr hp)).symm.trans hstarted) Bool.false_ne_true
  case keeps =>
    have h0 : s.oscFreq ≠ 0 := hsame ▸ hf
    rcases specStep_keeps_frequency hp hheld h0 (spec_step hm hstep) with hdrop | hkept
    · exact absurd (hdrop.symm.trans ht) Bool.false_ne_true
    · exact hkept

end Sys2Proof.Machine
end

section
/-!
PROOFS of the statements on single steps and registers (`spec/10_state.md` R21 to R27, R50, `spec/20_memory.md` R80): the
decoded instruction runs, a placed word runs next, the register file, reset, and the completion of COMMIT.
-/

namespace Sys2Proof.Machine

open Sys2Proof

/-! ### The step that runs an instruction -/

/-- Outside HALTED a word that decodes is executed (R23). -/
theorem issueCommand_of_decode {s : State} {w : Word} {i : Instr} (hs : s.phase ≠ .halted)
    (hd : decodeCommand w = .ok i) : issueCommand w s = exec i s := by
  rw [issueCommand, unlessHalted_of_ne hs, hd]

/-- Settles O6: the turn issues the word, which is executed; the `micro` move executes its code. -/
theorem stepRunsDecodedInstruction : Obligations.StepRunsDecodedInstruction := by
  refine ⟨fun s w i ops rest hs hwait hsched hprog hd => ?command, fun s c u i rest hsched hd => ?micro⟩
  case command =>
    rw [step_of_writeCmd hwait hsched hprog]
    exact issueCommand_of_decode hs hd
  case micro => exact step_micro hsched hd

theorem withFetchWord_of_form {s : State} {nbits w : Nat} {e : Encoded} (h : tableForm nbits w = some e) :
    s.withFetchWord nbits w = placeEncoded s e := by
  rw [State.withFetchWord, h]

/-- A placed command is the next statement of a producer that is not suspended (log 2). -/
theorem step_placeEncoded_command {s : State} {w : Word} {i : Instr} (hs : s.phase ≠ .halted)
    (hd : decodeCommand w = .ok i) :
    step (placeEncoded s (.command w)) = exec i { s with prodWaiting := false } :=
  (step_of_writeCmd rfl rfl rfl).trans (issueCommand_of_decode hs hd)

/-- A placed micro-operation is the next move, with operands 0 (log 2). -/
theorem step_placeEncoded_micro {s : State} {c : Byte} {i : Instr} (hd : decodeMicro c = .ok i) :
    step (placeEncoded s (.micro c)) = exec i { s with uop := MicroOperands.zero } :=
  step_micro rfl hd

/-- A table word has one of the two written forms, which decodes to what the word does. -/
theorem decodeTableWord_eq_some {nbits w : Nat} {i : Instr} (h : decodeTableWord nbits w = some i) :
    ∃ e, tableForm nbits w = some e ∧ decode e = .ok i := by
  obtain ⟨e, hform, hopt⟩ := Option.bind_eq_some_iff.1 h
  refine ⟨e, hform, ?_⟩
  cases hd : decode e with
  | ok j =>
    rw [hd] at hopt
    cases hopt
    rfl
  | error err =>
    rw [hd] at hopt
    cases hopt

/-- Settles O7: the placed form, a command or a micro-operation, is what the next step executes. -/
theorem placedWordRunsNext : Obligations.PlacedWordRunsNext := by
  intro s nbits w i h hs
  obtain ⟨e, hform, hd⟩ := decodeTableWord_eq_some h
  rw [withFetchWord_of_form hform]
  cases e with
  | command word =>
    rw [if_neg (by simp [isMicroOp_of_decodeCommand hd])]
    exact step_placeEncoded_command hs hd
  | micro c =>
    rw [if_pos (isMicroOp_of_decodeMicro hd)]
    exact step_placeEncoded_micro hd

/-! ### The register file -/

/-- A turn of a producer that is not suspended runs its next statement (R80). -/
theorem step_of_statement {s : State} {op : ProdOp} {ops : List ProdOp} {rest : List Move}
    (hwait : s.prodWaiting = false) (hsched : s.sched = .producer :: rest) (hprog : s.prog = op :: ops) :
    step s = runStatement op { s with sched := rest, prog := ops } := by
  simp [step, nextMove, hsched, runMove, producerTurn, hwait, hprog]

theorem readReg_of_ge (s : State) {n : Nat} (h : 14 ≤ n) : readReg s n = 0 := by
  obtain ⟨k, rfl⟩ := Nat.exists_eq_add_of_le' h
  rfl

/-- A write to a number that is no argument register is ignored (R22, R24 to R27, log 6). -/
theorem writeArgument_of_ignored (s : State) {n : Nat} (v : Word) (h : n < 4 ∨ 9 ≤ n) : writeArgument s n v = s := by
  unfold writeArgument
  split
  case h_6 => rfl
  all_goals omega

/-- Settles O8: a statement is a read, or a write of a register that is not `CMD`, which stores or is ignored. -/
theorem registerFileAccess : Obligations.RegisterFileAccess := by
  refine ⟨fun s n ops rest hwait hsched hprog => step_of_statement hwait hsched hprog,
    fun s => ⟨rfl, rfl, rfl, rfl, rfl, rfl, rfl, rfl, rfl, rfl, rfl, rfl, rfl, rfl, fun n h => readReg_of_ge s h⟩,
    fun s n v ops rest hwait hsched hprog => ?write⟩
  case write =>
    intro s'
    have hstep : n ≠ 0 → step s = .next (writeArgument s' n v) := fun hn =>
      (step_of_statement hwait hsched hprog).trans (if_neg hn)
    refine ⟨?a0, ?a1, ?a2, ?a3, ?a4, fun hn => ?ignored⟩
    case ignored =>
      have hrange : n ≠ 0 ∧ (n < 4 ∨ 9 ≤ n) := by
        simp only [List.mem_cons, List.not_mem_nil, or_false] at hn
        omega
      rw [hstep hrange.1, writeArgument_of_ignored s' v hrange.2]
    all_goals
      rintro rfl
      exact hstep (by decide)

/-! ### Reset -/

/-- Settles O10: the values of R50 at launch, and the reset move is `resetBlock`. -/
theorem resetValues : Obligations.ResetValues := by
  refine ⟨by decide, fun s rest hs => ?_⟩
  rw [step, nextMove, hs]
  rfl

/-! ### The completion of COMMIT -/

theorem step_of_waiting {s : State} {rest : List Move} (hwait : s.prodWaiting = true)
    (hsched : s.sched = .producer :: rest) :
    step s = .next (if s.wakePending then completeCommit { s with sched := rest } else { s with sched := rest }) := by
  simp [step, nextMove, hsched, runMove, producerTurn, hwait]

/-- Settles O19: the turn of a suspended producer completes the commit if a wake is pending, and is used up if not. -/
theorem commitWaitsThenCompletes : Obligations.CommitWaitsThenCompletes := by
  intro s rest hwait hsched
  rw [step_of_waiting hwait hsched]
  refine ⟨fun hwake => ?completes, fun hwake => ?waits⟩
  case completes =>
    rw [if_pos hwake]
    rfl
  case waits => rw [if_neg (by simp [hwake])]

end Sys2Proof.Machine
end

section
/-!
PROOFS of the statements on the profiles, what INIT and BEGIN refuse, and HALTED (`spec/00_scope.md` R8,
`spec/44_engine_lifecycle.md` R251, R252, R255, `spec/60_exceptions.md` R287).
-/

namespace Sys2Proof.Machine

open Sys2Proof

/-! ### Well-formedness of a profile (R8) -/

theorem fitsTransfer_iff {p : Profile} : fitsTransfer p = true ↔ p.lineWidth.toNat * 2 ≤ 4092 :=
  decide_eq_true_iff

/-- The conditions of R8 on the line, those on the sync widths by `std`. -/
theorem lineShapeOk_iff {p : Profile} :
    lineShapeOk p = true ↔
      p.spcc.toNat ∣ p.lineWidth.toNat ∧ p.spcc.toNat ∣ p.burstStart.toNat ∧ p.spcc.toNat ∣ p.activeStart.toNat ∧
      p.hsync.toNat ≤ p.burstStart.toNat ∧ p.burstStart.toNat + p.burstWidth.toNat ≤ p.activeStart.toNat ∧
      p.activeStart.toNat + 256 * p.spp.toNat ≤ p.lineWidth.toNat ∧
      (p.std.toNat = 0 → p.hsyncLong.toNat ≤ p.lineWidth.toNat) ∧
      (p.std.toNat ≠ 0 → 2 ∣ p.lineWidth.toNat ∧ p.hsyncLong.toNat ≤ p.lineWidth.toNat / 2 ∧
        p.hsyncShort.toNat ≤ p.lineWidth.toNat / 2) := by
  simp only [lineShapeOk, Bool.and_eq_true, decide_eq_true_eq, Nat.dvd_iff_mod_eq_zero]
  by_cases h : p.std.toNat = 0
  · simp [Config.fbWidth, h, and_assoc]
  · simp [Config.fbWidth, h, and_assoc]

/-- The conditions of R8 on the field, by `std`. -/
theorem fieldShapeOk_iff {p : Profile} :
    fieldShapeOk p = true ↔
      (p.std.toNat = 0 → p.activeLines.toNat + 5 + 3 ≤ p.totalLines.toNat) ∧
      (p.std.toNat ≠ 0 → 32 + p.activeLines.toNat ≤ 304 ∧ 304 < p.totalLines.toNat ∧ p.totalLines.toNat - 304 ≤ 8) ∧
      p.activeLines.toNat = 240 ∧ p.totalLines.toNat < 65536 := by
  by_cases h : p.std.toNat = 0
  · simp only [fieldShapeOk, if_pos h, Bool.and_eq_true, decide_eq_true_eq]
    simp [Config.ntscPostBlank, Config.ntscVsync, Config.activeLines, h, and_assoc]
  · simp only [fieldShapeOk, if_neg h, Bool.and_eq_true, decide_eq_true_eq]
    simp [Config.palActiveFirst, Config.palVsyncFirst, Config.palVsyncRows, Config.activeLines, h, and_assoc]

/-- The check is R8: its three parts, joined and sorted by `std`. -/
theorem wellFormedProfile_iff {p : Profile} : wellFormedProfile p = true ↔ rule8 p := by
  rw [wellFormedProfile, Bool.and_eq_true, Bool.and_eq_true, fitsTransfer_iff, lineShapeOk_iff, fieldShapeOk_iff]
  constructor
  · rintro ⟨⟨hfits, hwidth, hburst, hactive, hsync, hporch, hpicture, hntscLine, hpalLine⟩, hntscRows, hpalRows, hlines,
      htotal⟩
    exact ⟨hwidth, hburst, hactive, hsync, hporch, hpicture, fun h => ⟨hntscLine h, hntscRows h⟩,
      fun h => let ⟨heven, hlong, hshort⟩ := hpalLine h; ⟨heven, hlong, hshort, hpalRows h⟩, hlines, hfits, htotal⟩
  · rintro ⟨hwidth, hburst, hactive, hsync, hporch, hpicture, hntsc, hpal, hlines, hfits, htotal⟩
    exact ⟨⟨hfits, hwidth, hburst, hactive, hsync, hporch, hpicture, fun h => (hntsc h).1,
      fun h => let ⟨heven, hlong, hshort, _⟩ := hpal h; ⟨heven, hlong, hshort⟩⟩, fun h => (hntsc h).2,
      fun h => let ⟨_, _, _, hrows⟩ := hpal h; hrows, hlines, htotal⟩

/-- Settles O11: the check is R8, and it accepts each of the three default profiles. -/
theorem defaultProfilesWellFormed : Obligations.DefaultProfilesWellFormed := by
  have haccepted : ∀ m, wellFormedProfile (profileOf m) = true := by
    intro m
    cases m <;> decide
  exact ⟨fun m => ⟨wellFormedProfile_iff.1 (haccepted m), haccepted m⟩, fun _ => wellFormedProfile_iff⟩

/-! ### What INIT refuses (R252) -/

theorem exec_init_active {s : State} (h : s.phase = .active) (std spcc : Nat) :
    exec (.init std spcc) s = .next (raiseFatal .configurationError 0x01 6 s) := by
  have hrun : s.phase ≠ .halted := by simp [h]
  exact (unlessHalted_of_ne hrun _).trans (if_pos h)

theorem initWith_of_noMode {s : State} (h : s.phase = .unconfigured ∨ s.phase = .configured) (table : Mode → Profile)
    {std spcc : Nat} (hm : modeOf std spcc = none) :
    initWith table std spcc s = .next (raiseFatal .configurationError 0x01 4 s) := by
  rw [initWith, unlessHalted_of_ne (not_halted_of_idle h), if_neg (not_active_of_idle h), hm]

theorem initWith_of_cause {s : State} (h : s.phase = .unconfigured ∨ s.phase = .configured) {table : Mode → Profile}
    {std spcc : Nat} {m : Mode} {c : BitVec 4} (hm : modeOf std spcc = some m) (hc : profileCause (table m) = some c) :
    initWith table std spcc s = .next (raiseFatal .configurationError 0x01 c s) := by
  rw [initWith, unlessHalted_of_ne (not_halted_of_idle h), if_neg (not_active_of_idle h), hm]
  simp only [hc]

theorem modeOf_eq_none {std spcc : Nat} (h3 : ¬ (std = 0 ∧ spcc = 3)) (h4 : ¬ (std = 0 ∧ spcc = 4))
    (hpal : ¬ (std = 1 ∧ spcc = 4)) : modeOf std spcc = none := by
  rw [modeOf, if_neg h3, if_neg h4, if_neg hpal]

theorem profileCause_of_tooLong {p : Profile} (h : 4092 < p.lineWidth.toNat * 2) : profileCause p = some 2 := by
  have hfits : fitsTransfer p = false := by
    rw [← Bool.not_eq_true, fitsTransfer_iff]
    omega
  exact if_pos hfits

theorem profileCause_of_malformed {p : Profile} (h : p.lineWidth.toNat * 2 ≤ 4092) (hw : wellFormedProfile p = false) :
    profileCause p = some 7 := by
  have hfits : ¬ fitsTransfer p = false := by simp [fitsTransfer_iff.2 h]
  rw [profileCause, if_neg hfits, if_pos hw]

/-- Settles O21: the phase, then the pair, then the transfer limit, then the rest of R8, each with its own cause. -/
theorem initRefusalCauses : Obligations.InitRefusalCauses := by
  refine ⟨fun s std spcc h => ?active, fun s std spcc h h3 h4 hpal => ?pair,
    fun table s std spcc m h hm => ⟨fun hlong => ?tooLong, fun hfits hw => ?malformed⟩⟩
  case active => exact (exec_init_active h std spcc).trans (congrArg _ (raiseFatal_eq s rfl))
  case pair =>
    exact (initWith_of_noMode h profileOf (modeOf_eq_none h3 h4 hpal)).trans (congrArg _ (raiseFatal_eq s rfl))
  case tooLong =>
    rw [initWith_of_cause h hm (profileCause_of_tooLong hlong), raiseFatal_eq s rfl]
    rfl
  case malformed =>
    rw [initWith_of_cause h hm (profileCause_of_malformed hfits hw), raiseFatal_eq s rfl]
    rfl

/-! ### What BEGIN refuses (R255) -/

theorem exec_beginEngine_active {s : State} (h : s.phase = .active) :
    exec .beginEngine s = .next (raiseFatal .configurationError 0x02 1 s) := by
  have hrun : s.phase ≠ .halted := by simp [h]
  exact (unlessHalted_of_ne hrun _).trans (if_pos h)

theorem exec_beginEngine_unready {s : State}
    (h : s.phase = .unconfigured ∨ s.phase = .configured ∧ s.plan.valid = false) :
    exec .beginEngine s = .next (raiseFatal .configurationError 0x02 5 s) := by
  have hidle : s.phase = .unconfigured ∨ s.phase = .configured := h.imp_right And.left
  exact (unlessHalted_of_ne (not_halted_of_idle hidle) _).trans
    ((if_neg (not_active_of_idle hidle)).trans (if_pos (h.imp_right And.right)))

/-- Settles O23: the phase check, then the plan check, each with its own cause. -/
theorem beginRefusalCauses : Obligations.BeginRefusalCauses := by
  refine ⟨fun s h => ?active, fun s h => ?unready⟩
  case active => exact (exec_beginEngine_active h).trans (congrArg _ (raiseFatal_eq s rfl))
  case unready => exact (exec_beginEngine_unready h).trans (congrArg _ (raiseFatal_eq s rfl))

/-! ### HALTED (R287) -/

theorem unlessHalted_of_halted {s : State} (h : s.phase = .halted) (k : Result) : unlessHalted s k = .next s := if_pos h

/-- Every host command begins with the check for HALTED. -/
theorem exec_of_halted {s : State} {i : Instr} (h : s.phase = .halted) (hi : isMicroOp i = false) :
    exec i s = .next s := by
  cases i with
  | nop | init | beginEngine | teardown | getwb | fbwr | commit | getfc | getsc | csCoarse | csFine =>
    exact unlessHalted_of_halted h _
  | lineActive | lineBlank | lineVsync | linePalsync | peEncN3 | peEncN4 | peEncP4 | seqAdvance | fbAlloc | csApply
  | csSynth => exact absurd hi (by decide)

/-- What HALTED latches: the phase, FAULT and the result registers are the same in `s` and `t`. -/
def SameLatched (s t : State) : Prop :=
  t.phase = s.phase ∧ t.fault = s.fault ∧ t.r0 = s.r0 ∧ t.r1 = s.r1 ∧ t.r2 = s.r2 ∧ t.r3 = s.r3 ∧ t.r4 = s.r4

theorem specStep_halted {s t : State} (h : s.phase = .halted) (hr : s.sched.head? ≠ some .reset) (hs : SpecStep s t) :
    SameLatched s t := by
  cases hs with
  | illegal w _ _ _ hrun => exact absurd h hrun
  | command w i _ _ _ _ hrun => exact absurd h hrun
  | reset hsched => exact absurd (by rw [hsched]; rfl) hr
  | argument n v =>
    rw [writeArgument_frame]
    exact ⟨rfl, rfl, rfl, rfl, rfl, rfl, rfl⟩
  | tick l =>
    rw [advance_frame]
    exact ⟨rfl, rfl, rfl, rfl, rfl, rfl, rfl⟩
  | extRel =>
    rw [extRelease_frame]
    exact ⟨rfl, rfl, rfl, rfl, rfl, rfl, rfl⟩
  | extCfg f =>
    rw [extConfigure_frame]
    exact ⟨rfl, rfl, rfl, rfl, rfl, rfl, rfl⟩
  | idle | skip | complete | read | extAcq => exact ⟨rfl, rfl, rfl, rfl, rfl, rfl, rfl⟩

/-- Settles O12: commands and words on `CMD` stop at the check for HALTED, and no other move but reset reaches what it
latches. -/
theorem haltedUntilReset : Obligations.HaltedUntilReset := by
  refine ⟨fun s i h hi => exec_of_halted h hi, fun s w h => unlessHalted_of_halted h _, fun s t h hm hr hstep => ?_⟩
  obtain ⟨hphase, hrest⟩ := specStep_halted h hr (spec_step hm hstep)
  exact ⟨hphase.trans h, hrest⟩

end Sys2Proof.Machine
end

section
/-!
PROOFS of the statements on the frame buffers (`spec/43_frame_buffer_coordinator.md` R221, R224, R226, `spec/10_state.md`
R45): FBWR's store, FB.ALLOC, and that the producer leaves the front buffer.
-/

namespace Sys2Proof.Machine

open Sys2Proof

/-! ### The store of FBWR -/

/-- A FBWR that passes its checks stores one element (R224). -/
theorem exec_fbwr_stores {s : State} {row col : Nat} (h : s.phase = .active) (hback : fbwrHandle s ≠ s.frontSel)
    (hfb : s.fbValid = true) (hrow : row < s.prof.activeLines.toNat) (hcol : col < Config.fbWidth) :
    exec (.fbwr row col) s = .next (finish .done
      (setFb s (fbwrHandle s) (memWrite (fbOf s (fbwrHandle s)) (fbIndex row col) (fbwrPixel s)))) := by
  have hrange : ¬ (s.prof.activeLines.toNat ≤ row ∨ Config.fbWidth ≤ col) := by omega
  refine (phaseChecks_of_active h ..).trans ((if_neg hback).trans ((if_neg hrange).trans ?_))
  rw [storePixel_of_exists (fbRowExists_iff.2 ⟨hfb, hrow⟩), andThen_next]

/-- Settles O16: the checks pass, the one element reads as stored and every other as before. -/
theorem fbwrStoresOnePixel : Obligations.FbwrStoresOnePixel := by
  intro s row col hp hfb hback hrow hcol
  refine ⟨_, exec_fbwr_stores hp hback hfb hrow hcol, ?stored, fun h' row' col' hcol' hother => ?others, ?front, rfl⟩
  case stored => exact (fbRead_store s _ hcol _ hcol).trans (if_pos ⟨rfl, rfl, rfl⟩)
  case others => exact (fbRead_store s _ hcol h' hcol').trans (if_neg hother)
  case front => exact (fbOf_setFb s _ _ _).trans (if_neg (Ne.symm hback))

/-! ### FB.ALLOC -/

theorem exec_fbAlloc (s : State) : exec .fbAlloc s = .next (setFb s s.uop.h []) := rfl

/-- Settles O44: the buffer lists no element afterwards, and the other one is as before. -/
theorem fbAllocUnspecified : Obligations.FbAllocUnspecified := by
  intro s
  refine ⟨_, exec_fbAlloc s, fun row col => ?_, fbOf_setFb_other s _ _, ?_⟩
  · rw [fbRead, fbOf_setFb_same, memRead_nil]
  · rw [fbOf_setFb_same]

/-! ### The producer and the front buffer -/

/-- The front buffer and its contents are the same in `s` and `t`. -/
def SameFront (s t : State) : Prop := t.frontSel = s.frontSel ∧ fbOf t s.frontSel = fbOf s s.frontSel

/-- In ACTIVE a host command leaves the front buffer, or it is a TEARDOWN: FBWR stores in the other one (R226), and BEGIN
is refused. -/
theorem command_leaves_front {s t : State} {i : Instr} (hp : s.phase = .active) (he : CommandEffect s i t) :
    t.phase = .unconfigured ∨ SameFront s t := by
  cases he with
  | beginEngine h => simp [hp] at h
  | init m std spcc h => simp [hp] at h
  | teardown =>
    rw [teardownSteps_eq]
    exact .inl rfl
  | fbwr row col _ hback =>
    refine .inr ⟨rfl, (fbOf_setFb s _ _ _).trans (if_neg ?_)⟩
    rw [hback]
    exact (Bool.not_ne_self _).symm
  | ignored | fatal | nop | teardownIdle | getwb | commit | getfc | getsc | csCoarse | csFine => exact .inr ⟨rfl, rfl⟩

theorem producer_leaves_front {s t : State} (hsched : s.sched.head? = some .producer) (hp : s.phase = .active)
    (hs : SpecStep s t) : t.phase = .unconfigured ∨ SameFront s t := by
  cases hs with
  | @command rest ops t w i _ _ _ _ _ he => exact command_leaves_front (s := { s with sched := rest, prog := ops }) hp he
  | argument n v =>
    rw [writeArgument_frame]
    exact .inr ⟨rfl, rfl⟩
  | tick _ h | extRel h | extCfg _ h | reset h => simp [h] at hsched
  | idle | skip | complete | read | illegal | extAcq => exact .inr ⟨rfl, rfl⟩

/-- Settles O51: a turn of the producer in ACTIVE is a TEARDOWN or leaves the front buffer whole. -/
theorem producerLeavesFrontBuffer : Obligations.ProducerLeavesFrontBuffer := by
  intro s t hsched hp hstep hconf
  have hm : s.specMove = true := by
    obtain ⟨rest, hs⟩ : ∃ rest, s.sched = .producer :: rest := List.head?_eq_some_iff.1 hsched
    rw [State.specMove, hs]
  rcases producer_leaves_front hsched hp (spec_step hm hstep) with hdown | ⟨hsel, hfront⟩
  · exact absurd hdown hconf
  · exact ⟨hsel, fun row col => by rw [fbRead, fbRead, hfront]⟩

end Sys2Proof.Machine
end

section
/-!
PROOFS of the statements on what a tick reads and runs (`spec/20_memory.md` R82, `spec/42_scan_timing_engine.md` R181, R183):
the line operation of a TICK is the micro-operation of that name, and no tick reads the back buffer.
-/

namespace Sys2Proof.Machine

open Sys2Proof

/-! ### The line operation of a TICK -/

/-- Settles O58: no line operation sees `uop`, so each is its micro-operation with its operands there. -/
theorem tickRunsTheMicroOperation : Obligations.TickRunsTheMicroOperation := by
  intro s op j u hu
  cases op with
  | active row parity =>
    obtain ⟨rfl, rfl, rfl⟩ := hu
    exact blind_runLine (.active u.row u.parity) u.j u s
  | blank =>
    obtain ⟨rfl, -⟩ := hu
    exact blind_runLine .blank u.j u s
  | vsync =>
    obtain ⟨rfl, -⟩ := hu
    exact blind_runLine .vsync u.j u s
  | palsync t =>
    obtain ⟨rfl, rfl⟩ := hu
    exact blind_runLine (.palsync u.t) u.j u s

/-! ### States that differ in one frame buffer -/

theorem setFb_setFb (s : State) (h : Bool) (m m' : Memory) : setFb (setFb s h m) h m' = setFb s h m' := by
  cases h <;> rfl

theorem setFb_self (s : State) (h : Bool) : setFb s h (fbOf s h) = s := by
  cases h <;> rfl

/-- A state alike but for one frame buffer is the same state with other contents there. -/
theorem State.sameBut.eq_setFb {s s' : State} {h : Bool} (hs : s.sameBut s' h) : s' = setFb s h (fbOf s' h) := by
  calc s' = setFb (setFb s' h []) h (fbOf s' h) := by rw [setFb_setFb, setFb_self]
    _ = setFb (setFb s h []) h (fbOf s' h) := by rw [show setFb s h [] = setFb s' h [] from hs]
    _ = setFb s h (fbOf s' h) := setFb_setFb ..

theorem sameBut_setFb (s : State) (h : Bool) (m : Memory) : s.sameBut (setFb s h m) h :=
  (setFb_setFb s h m []).symm

/-! ### No tick reads the back buffer -/

/-- A line operation reads the front buffer only (R82). -/
theorem alike_setFb_back (s : State) (m : Memory) : Alike s (setFb s (!s.frontSel) m) where
  prof := rfl
  mode := rfl
  frontSel := rfl
  front := (fbOf_setFb s _ _ m).trans (if_neg (Bool.not_ne_self _).symm)
  fbValid := rfl
  sbValid := rfl
  sb _ := rfl

theorem drain_setFb {s t : State} {j : Bool} (h : Bool) (m : Memory) (hd : drain j s = .next t) :
    drain j (setFb s h m) = .next (setFb t h m) := by
  unfold drain at hd
  split at hd
  · rename_i hr
    cases hd
    exact if_pos hr
  · cases hd

theorem advance_setFb (s : State) (h : Bool) (m : Memory) : advance (setFb s h m) = setFb (advance s) h m := by
  rcases advance_cases s with ⟨hwithin, he⟩ | ⟨hwrap, hready, he⟩ | ⟨hwrap, hready, he⟩ <;> rw [he]
  · exact advance_within hwithin
  · exact advance_wrap hwrap hready
  · exact advance_swap hwrap hready

/-- With other contents in the back buffer a tick does the same and leaves those contents. -/
theorem tickBody_setFb_back {s t : State} (m : Memory) (h : tickBody s = .next t) :
    tickBody (setFb s (!s.frontSel) m) = .next (setFb t (!s.frontSel) m) := by
  obtain ⟨s1, hdrain, hrest⟩ := andThen_eq_next.1 h
  obtain rfl := drain_eq_next hdrain
  obtain ⟨s2, hline, hlast⟩ := andThen_eq_next.1 hrest
  obtain ⟨l, rfl, -⟩ := onlySb_runLine _ _ _ _ hline
  cases hlast
  have hline' := fillsAlike_runLine _ _ _ _ l (alike_setFb_back (drained s) m) hline
  refine andThen_eq_next.2 ⟨_, drain_setFb _ m hdrain, andThen_eq_next.2 ⟨_, hline', ?_⟩⟩
  exact congrArg _ (advance_setFb { setSb (drained s) s.fillSel l with fillSel := !s.fillSel } _ m)

theorem lineEvent_setFb_back {s t : State} (m : Memory) (h : lineEvent s = .next t) :
    lineEvent (setFb s (!s.frontSel) m) = .next (setFb t (!s.frontSel) m) := by
  unfold lineEvent at h
  split at h
  · rename_i ht
    exact (if_pos ht).trans (tickBody_setFb_back m h)
  · rename_i ht
    cases h
    exact if_neg ht

/-- Settles O52: the second state is the first with other contents in the back buffer, and a tick carries them along. -/
theorem tickIgnoresBackBuffer : Obligations.TickIgnoresBackBuffer := by
  intro s s' t hsched hsame hstep
  obtain ⟨rest, hs⟩ := List.head?_eq_some_iff.1 hsched
  rw [step_tick hs] at hstep
  rw [hsame.eq_setFb]
  refine ⟨_, (step_tick (s := setFb s _ _) hs).trans (lineEvent_setFb_back (s := { s with sched := rest }) _ hstep), ?_⟩
  exact ⟨sameBut_setFb .., rfl, rfl, rfl⟩

end Sys2Proof.Machine
end

section
/-!
PROOFS of the statements on the swap and the field counter (`spec/42_scan_timing_engine.md` R194, R195, `spec/10_state.md` R32,
R35, R45): the moves that change them.
-/

namespace Sys2Proof.Machine

open Sys2Proof

/-- The front buffer's number and both counters are the same in `s` and `t`. -/
def SameCounts (s t : State) : Prop :=
  t.frontSel = s.frontSel ∧ t.swapCount = s.swapCount ∧ t.frameCount = s.frameCount

/-- A BEGIN has started the engine: no other command leads from CONFIGURED to ACTIVE. -/
def Begins (s t : State) : Prop := s.phase = .configured ∧ t.phase = .active

/-- Front buffer and counters are at the values a started engine begins with (R50, R256). -/
def CountsAtStart (t : State) : Prop := t.frontSel = false ∧ t.swapCount = 0 ∧ t.frameCount = 0

/-- `t` has the front buffer, the handshake and the counters that SEQ.ADVANCE makes of `s` (R194). -/
def Advanced (s t : State) : Prop :=
  t.frontSel = (advance s).frontSel ∧ t.swapCount = (advance s).swapCount ∧ t.frameCount = (advance s).frameCount ∧
    t.ready = (advance s).ready ∧ t.wakePending = (advance s).wakePending ∧ t.lineCounter = (advance s).lineCounter

/-- A line-completion event that is not dropped. -/
def enabledTick (s : State) : Prop := s.sched.head? = some .tick ∧ s.tickEnable = true

theorem not_begins_of_phase_eq {s t : State} (h : t.phase = s.phase) : ¬ Begins s t := by
  rintro ⟨hs, ht⟩
  simp [hs, ht] at h

/-- BEGIN starts the counters over, and no other command touches them or starts the engine. -/
theorem command_counts {s t : State} {i : Instr} (he : CommandEffect s i t) :
    (SameCounts s t ∧ ¬ Begins s t) ∨ (Begins s t ∧ CountsAtStart t) := by
  have hsame : SameCounts s s := ⟨rfl, rfl, rfl⟩
  cases he with
  | beginEngine hp =>
    rw [beginSteps_eq]
    exact .inr ⟨⟨hp, rfl⟩, rfl, rfl, rfl⟩
  | teardown =>
    rw [teardownSteps_eq]
    exact .inl ⟨hsame, nofun⟩
  | fatal | init => exact .inl ⟨hsame, nofun⟩
  | ignored | nop | teardownIdle | getwb | fbwr | commit | getfc | getsc | csCoarse | csFine =>
    exact .inl ⟨hsame, not_begins_of_phase_eq rfl⟩

/-- What a move of the spec can do to the front buffer and the counters: keep them, advance them in an enabled tick, or
start them over in a BEGIN or a reset. -/
def CountsEffect (s t : State) : Prop :=
  (SameCounts s t ∧ ¬ enabledTick s ∧ ¬ startsOver s t) ∨ (enabledTick s ∧ Advanced s t) ∨ (startsOver s t ∧ CountsAtStart t)

/-- A move that is no tick and no reset keeps them unless it begins. -/
theorem countsEffect_of_same {s t : State} (hc : SameCounts s t) (hbegins : ¬ Begins s t)
    (htick : s.sched.head? ≠ some .tick) (hreset : s.sched.head? ≠ some .reset) : CountsEffect s t :=
  .inl ⟨hc, fun h => htick h.1, fun h => h.elim hreset fun h => hbegins h.2⟩

theorem specStep_counts {s t : State} (hs : SpecStep s t) : CountsEffect s t := by
  have hsame : SameCounts s s := ⟨rfl, rfl, rfl⟩
  cases hs with
  | skip ops h hr _ ht =>
    refine .inl ⟨hsame, fun ⟨htick, hen⟩ => ?_, fun hover => ?_⟩
    · rw [ht (by simpa [h] using htick)] at hen
      cases hen
    · exact hover.elim (fun hreset => hr (by simpa [h] using hreset)) fun h => not_begins_of_phase_eq rfl h.2
  | idle h | complete h | read _ h | extAcq h =>
    exact countsEffect_of_same hsame (not_begins_of_phase_eq rfl) (by simp [h]) (by simp [h])
  | argument n v h =>
    rw [writeArgument_frame]
    exact countsEffect_of_same hsame (not_begins_of_phase_eq rfl) (by simp [h]) (by simp [h])
  | extRel h =>
    rw [extRelease_frame]
    exact countsEffect_of_same hsame (not_begins_of_phase_eq rfl) (by simp [h]) (by simp [h])
  | extCfg f h =>
    rw [extConfigure_frame]
    exact countsEffect_of_same hsame (not_begins_of_phase_eq rfl) (by simp [h]) (by simp [h])
  | illegal w h => exact countsEffect_of_same hsame nofun (by simp [h]) (by simp [h])
  | command w i h _ _ _ _ he =>
    rcases command_counts he with ⟨hc, hno⟩ | ⟨hbegin, hc⟩
    · exact countsEffect_of_same hc hno (by simp [h]) (by simp [h])
    · exact .inr (.inr ⟨.inr ⟨by simp [h], hbegin⟩, hc⟩)
  | @tick rest l h ht =>
    rw [advance_afterFill s rest l]
    exact .inr (.inl ⟨⟨by simp [h], ht⟩, rfl, rfl, rfl, rfl, rfl, rfl⟩)
  | reset h => exact .inr (.inr ⟨.inl (by simp [h]), rfl, rfl, rfl⟩)

theorem not_startsOver_of_tick {s t : State} (h : s.sched.head? = some .tick) : ¬ startsOver s t := by
  rintro (hreset | ⟨hprod, -⟩)
  · simp [h] at hreset
  · simp [h] at hprod

/-- Settles O49: of the three things a move can do, only the swapping case of an enabled tick and a fresh start change the
front buffer or `swapCount`. -/
theorem swapOnlyAtTheWrap : Obligations.SwapOnlyAtTheWrap := by
  intro s t hm hstep
  rcases specStep_counts (spec_step hm hstep) with ⟨⟨hfront, hswaps, -⟩, hno, -⟩ | ⟨htick, hadv⟩ | ⟨hover, hfront, hswaps, -⟩
  · exact ⟨fun hchange => absurd hchange (by simp [hfront, hswaps]), fun hswap => absurd ⟨hswap.1, hswap.2.1⟩ hno⟩
  · obtain ⟨hfront, hswaps, -, hready, hwake, hline⟩ := hadv
    rcases advance_cases s with ⟨hwithin, he⟩ | ⟨-, hr, he⟩ | ⟨hwrap, hr, he⟩ <;> rw [he] at hfront hswaps hready hwake hline
    · exact ⟨fun hchange => absurd hchange (by simp [hfront, hswaps]), fun ⟨_, _, hwrap, _⟩ => absurd hwrap hwithin⟩
    · exact ⟨fun hchange => absurd hchange (by simp [hfront, hswaps]),
        fun ⟨_, _, _, hready⟩ => absurd (hr.symm.trans hready) Bool.false_ne_true⟩
    · exact ⟨fun _ => .inl ⟨⟨htick.1, htick.2, hwrap, hr⟩, hfront, hready, hswaps, hwake, hline⟩, fun _ => hfront⟩
  · exact ⟨fun _ => .inr ⟨hover, hfront, hswaps⟩, fun hswap => absurd hover (not_startsOver_of_tick hswap.1)⟩

/-- At the wrap SEQ.ADVANCE counts a field and returns to line 0, whether or not it swaps (R194). -/
theorem advance_counts_of_wrap {s : State} (h : atWrap s) :
    (advance s).frameCount = s.frameCount + 1 ∧ (advance s).lineCounter = 0 := by
  rcases advance_cases s with ⟨hwithin, -⟩ | ⟨-, -, he⟩ | ⟨-, -, he⟩
  · exact absurd h hwithin
  · rw [he]
    exact ⟨rfl, rfl⟩
  · rw [he]
    exact ⟨rfl, rfl⟩

/-- Settles O57: of the three things a move can do, only an enabled tick at the wrap and a fresh start change
`frameCount`. -/
theorem frameCountOnlyAtTheWrap : Obligations.FrameCountOnlyAtTheWrap := by
  intro s t hm hstep
  rcases specStep_counts (spec_step hm hstep) with ⟨⟨-, -, hframes⟩, hno, hnot⟩ | ⟨htick, hadv⟩ | ⟨hover, -, -, hframes⟩
  · exact ⟨fun hchange => absurd hframes hchange, fun hwrap => absurd ⟨hwrap.1, hwrap.2.1⟩ hno, fun h => absurd h hnot⟩
  · obtain ⟨-, -, hframes, -, -, hline⟩ := hadv
    have hnot := not_startsOver_of_tick (t := t) htick.1
    by_cases hwrap : atWrap s
    · obtain ⟨hcount, hzero⟩ := advance_counts_of_wrap hwrap
      rw [hcount] at hframes
      rw [hzero] at hline
      exact ⟨fun _ => .inl ⟨⟨htick.1, htick.2, hwrap⟩, hframes, hline⟩, fun _ => hframes, fun h => absurd h hnot⟩
    · rw [advance_within hwrap] at hframes
      exact ⟨fun hchange => absurd hframes hchange, fun h => absurd h.2.2 hwrap, fun h => absurd h hnot⟩
  · exact ⟨fun _ => .inr ⟨hover, hframes⟩, fun hwrap => absurd hover (not_startsOver_of_tick hwrap.1), fun _ => hframes⟩

end Sys2Proof.Machine
end

section
/-!
PROOFS of the statements on runs of ticks (`spec/42_scan_timing_engine.md` R182, R195, `spec/43_frame_buffer_coordinator.md`
R231, R232): the two-tick delay, a whole field, and the one swap that completes a COMMIT.
-/

namespace Sys2Proof.Machine

open Sys2Proof

/-! ### One tick after another -/

/-- From every state of the invariant an enabled tick leads to a state of the invariant. -/
theorem tick_from_inv {s : State} {rest : List Move} (h : s.Inv) (ht : s.tickEnable = true)
    (hs : s.sched = .tick :: rest) : ∃ l, step s = .next (ticked s rest l) ∧ (ticked s rest l).Inv := by
  obtain ⟨l, -, hstep⟩ := step_tick_completes h ht hs
  have hm : s.specMove = true := by rw [State.specMove, hs]
  exact ⟨l, hstep, invariantKept s _ h hm hstep⟩

@[simp] theorem ticked_tickEnable (s : State) (rest : List Move) (l : Line) :
    (ticked s rest l).tickEnable = s.tickEnable := by
  rw [ticked, advance_frame]

@[simp] theorem ticked_prodWaiting (s : State) (rest : List Move) (l : Line) :
    (ticked s rest l).prodWaiting = s.prodWaiting := by
  rw [ticked, advance_frame]

@[simp] theorem ticked_prog (s : State) (rest : List Move) (l : Line) : (ticked s rest l).prog = s.prog := by
  rw [ticked, advance_frame]

/-- The line a tick appends to OUT (R181). -/
def streamedLine (s : State) : List Sample := streamed s.draws ((sbOf s s.fillSel).take (lineWidth s))

theorem ticked_out (s : State) (rest : List Move) (l : Line) : (ticked s rest l).out = s.out ++ [streamedLine s] := rfl

/-- The buffer the next tick streams is the one this tick does not fill. -/
theorem sbOf_ticked_next (s : State) (rest : List Move) (l : Line) :
    sbOf (ticked s rest l) (ticked s rest l).fillSel = sbOf s (!s.fillSel) := sbOf_setSb_other s s.fillSel l

/-- Settles O46: the second tick fills the other buffer, so the third streams the line the first produced. -/
theorem lineStreamedTwoTicksLater : Obligations.LineStreamedTwoTicksLater := by
  intro s rest h ht hs
  obtain ⟨l1, hstep1, h1⟩ := tick_from_inv h ht hs
  generalize he1 : ticked s (.tick :: .tick :: rest) l1 = t1 at hstep1 h1
  have ht1 : t1.tickEnable = true := by rw [← he1, ticked_tickEnable, ht]
  obtain ⟨l2, hstep2, h2⟩ := tick_from_inv h1 ht1 (rest := .tick :: rest) (by rw [← he1]; rfl)
  generalize he2 : ticked t1 (.tick :: rest) l2 = t2 at hstep2 h2
  have ht2 : t2.tickEnable = true := by rw [← he2, ticked_tickEnable, ht1]
  obtain ⟨l3, hstep3, -⟩ := tick_from_inv h2 ht2 (rest := rest) (by rw [← he2]; rfl)
  refine ⟨t1, ticked t2 rest l3, streamedLine s, streamedLine t1, streamedLine t2, hstep1,
    ⟨t1, hstep1, t2, hstep2, _, hstep3, rfl⟩, ?out, fun p v hv => ?line⟩
  case out =>
    have hout1 : t1.out = s.out ++ [streamedLine s] := by rw [← he1, ticked_out]
    have hout2 : t2.out = t1.out ++ [streamedLine t1] := by rw [← he2, ticked_out]
    simp [ticked_out, hout2, hout1]
  case line =>
    have hsel : t1.fillSel = !s.fillSel := by rw [← he1]; rfl
    have hbuffer : sbOf t2 t2.fillSel = sbOf t1 s.fillSel := by
      rw [← he2, sbOf_ticked_next, hsel, Bool.not_not]
    exact streamed_take_getElem? (h2.sbOf_length ht2 _) (by rw [hbuffer, hv])

/-! ### The ticks of a field -/

/-- Steps in sequence, one more at the end. -/
theorem runsTo_succ_of_step {n : Nat} {s u t : State} (h : runsTo n s u) (hstep : step u = .next t) :
    runsTo (n + 1) s t := by
  induction n generalizing s with
  | zero =>
    obtain rfl : u = s := h
    exact ⟨t, hstep, rfl⟩
  | succ n ih =>
    obtain ⟨v, hv, hrest⟩ := h
    exact ⟨v, hv, ih hrest⟩

/-- `n` ticks have led from `s` to `t` without a wrap: `n` lines further, and apart from the line counter only the schedule,
OUT and the sample buffers have changed. -/
structure RanWithin (n : Nat) (s t : State) : Prop where
  inv : t.Inv
  counter : t.lineCounter.toNat = s.lineCounter.toNat + n
  outLength : t.out.length = s.out.length + n
  frame : t = { s with
    sched := t.sched, out := t.out, draws := t.draws, sb0 := t.sb0, sb1 := t.sb1, fillSel := t.fillSel,
    lineCounter := t.lineCounter }

section
variable {n : Nat} {s t : State} (h : RanWithin n s t)
include h

theorem RanWithin.prof : t.prof = s.prof := by rw [h.frame]
theorem RanWithin.tickEnable : t.tickEnable = s.tickEnable := by rw [h.frame]
theorem RanWithin.prodWaiting : t.prodWaiting = s.prodWaiting := by rw [h.frame]
theorem RanWithin.prog : t.prog = s.prog := by rw [h.frame]
theorem RanWithin.ready : t.ready = s.ready := by rw [h.frame]
theorem RanWithin.frontSel : t.frontSel = s.frontSel := by rw [h.frame]
theorem RanWithin.frameCount : t.frameCount = s.frameCount := by rw [h.frame]
theorem RanWithin.swapCount : t.swapCount = s.swapCount := by rw [h.frame]

end

/-- Away from the wrap a tick moves the line counter by one line. -/
theorem ranWithin_tick {s : State} {rest : List Move} {l : Line} (hi : (ticked s rest l).Inv)
    (hn : s.lineCounter.toNat + 1 < s.prof.totalLines.toNat) : RanWithin 1 s (ticked s rest l) := by
  have hadv : advance s = _ := advance_within (Nat.ne_of_lt hn)
  refine ⟨hi, ?counter, by simp [ticked_out], ?frame⟩
  case counter =>
    change (advance s).lineCounter.toNat = _
    rw [hadv]
    change (BitVec.ofNat 16 (s.lineCounter.toNat + 1)).toNat = _
    have htotal := s.prof.totalLines.isLt
    rw [BitVec.toNat_ofNat, Nat.mod_eq_of_lt (by omega)]
  case frame => rw [ticked, hadv]

theorem RanWithin.trans {m n : Nat} {s u t : State} (h : RanWithin m s u) (h' : RanWithin n u t) :
    RanWithin (m + n) s t where
  inv := h'.inv
  counter := by rw [h'.counter, h.counter, Nat.add_assoc]
  outLength := by rw [h'.outLength, h.outLength, Nat.add_assoc]
  frame := h'.frame.trans (by rw [h.frame])

/-- Ticks that do not reach the wrap (R195). -/
theorem ticks_within {n : Nat} {s : State} {rest : List Move} (h : s.Inv) (ht : s.tickEnable = true)
    (hs : s.sched = List.replicate n .tick ++ rest) (hn : s.lineCounter.toNat + n < s.prof.totalLines.toNat) :
    ∃ t, runsTo n s t ∧ RanWithin n s t ∧ t.sched = rest := by
  induction n generalizing s with
  | zero => exact ⟨s, rfl, ⟨h, rfl, rfl, rfl⟩, hs⟩
  | succ n ih =>
    rw [List.replicate_succ, List.cons_append] at hs
    obtain ⟨l, hstep, hi⟩ := tick_from_inv (rest := List.replicate n .tick ++ rest) h ht hs
    have hfirst : RanWithin 1 s _ := ranWithin_tick hi (by omega)
    obtain ⟨t, hrun, hran, hsched⟩ := ih hi (by rw [ticked_tickEnable, ht]) rfl (by rw [hfirst.counter, hfirst.prof]; omega)
    exact ⟨t, ⟨_, hstep, hrun⟩, Nat.add_comm 1 n ▸ hfirst.trans hran, hsched⟩

/-- The ticks to the end of the field: up to the last line without a wrap, then the tick at the wrap (R195, R231). -/
theorem ticks_to_wrap {s : State} {rest : List Move} (h : s.Inv) (ht : s.tickEnable = true)
    (hs : s.sched = List.replicate (s.prof.totalLines.toNat - s.lineCounter.toNat) .tick ++ rest) :
    ∃ u l, RanWithin (s.prof.totalLines.toNat - s.lineCounter.toNat - 1) s u ∧ atWrap u ∧
      runsTo (s.prof.totalLines.toNat - s.lineCounter.toNat) s (ticked u rest l) := by
  have hactive : s.phase = .active := by simpa [ht] using h.tickEnabled
  have hcounter := h.counter (h.activePhase hactive)
  obtain ⟨n, hn⟩ : ∃ n, s.prof.totalLines.toNat - s.lineCounter.toNat = n + 1 :=
    ⟨s.prof.totalLines.toNat - s.lineCounter.toNat - 1, by omega⟩
  rw [hn, List.replicate_succ', List.append_assoc] at hs
  obtain ⟨u, hrun, hran, hsched⟩ := ticks_within h ht hs (by omega)
  obtain ⟨l, hstep, -⟩ := tick_from_inv hran.inv (hran.tickEnable.trans ht) hsched
  have hwrap : atWrap u := by
    have hlast := hran.counter
    rw [atWrap, hran.prof]
    omega
  rw [hn, Nat.add_sub_cancel]
  exact ⟨u, l, hran, hwrap, runsTo_succ_of_step hrun hstep⟩

/-- Settles O47: from line 0 the ticks to the end of the field are `totalLines` many, and the last of them counts. -/
theorem fieldOfTicks : Obligations.FieldOfTicks := by
  intro s rest h ht hzero hs
  have hn : s.prof.totalLines.toNat - s.lineCounter.toNat = s.prof.totalLines.toNat := by
    rw [hzero]
    rfl
  obtain ⟨u, l, hran, hwrap, hrun⟩ := ticks_to_wrap h ht (by rw [hn, hs])
  obtain ⟨hcount, hline⟩ := advance_counts_of_wrap hwrap
  rw [hran.frameCount] at hcount
  rw [hn] at hran hrun
  refine ⟨ticked u rest l, hrun, hline, hcount, rfl, ?_⟩
  have htotal : 0 < s.prof.totalLines.toNat := by
    rw [atWrap, hran.prof] at hwrap
    omega
  rw [ticked_out, List.length_append, hran.outLength, List.length_singleton]
  omega

/-! ### The one swap of a COMMIT -/

theorem exec_commit_active {s : State} (h : s.phase = .active) :
    exec .commit s = .next { s with wakePending := false, ready := true, prodWaiting := true } :=
  phaseChecks_of_active h ..

/-- Settles O48: the issue leaves a state of the invariant with the swap due; the tick at the wrap makes it and raises the
wake, which the producer's turn consumes. -/
theorem commitCompletesAfterOneSwap : Obligations.CommitCompletesAfterOneSwap := by
  intro s ops rest h hp hwait n hprog hs
  have hissue : step s = .next { s with
      sched := List.replicate n .tick ++ .producer :: rest, prog := ops, wakePending := false, ready := true,
      prodWaiting := true } := by
    rw [step_of_writeCmd hwait hs hprog, issueCommand_of_decode (i := .commit) (by simp [hp]) rfl]
    exact exec_commit_active hp
  generalize hc : ({ s with
      sched := List.replicate n .tick ++ .producer :: rest, prog := ops, wakePending := false, ready := true,
      prodWaiting := true } : State) = c at hissue
  have hm : s.specMove = true := by rw [State.specMove, hs]
  have hi : c.Inv := invariantKept s c h hm hissue
  have hen : c.tickEnable = true := by
    rw [hi.tickEnabled, ← hc]
    exact decide_eq_true hp
  obtain ⟨u, l, hran, hwrap, hrun⟩ := ticks_to_wrap (rest := .producer :: rest) hi hen (by rw [← hc])
  have hready : u.ready = true := hran.ready.trans (by rw [← hc])
  have hwaiting : u.prodWaiting = true := hran.prodWaiting.trans (by rw [← hc])
  have hadv : advance u = _ := advance_swap hwrap hready
  have hwake : (ticked u (.producer :: rest) l).wakePending = true := by rw [ticked, hadv]
  have hlast : step (ticked u (.producer :: rest) l) =
      .next (completeCommit { ticked u (.producer :: rest) l with sched := rest }) := by
    rw [step_of_waiting (by rw [ticked_prodWaiting, hwaiting]) rfl, if_pos hwake]
  obtain ⟨hswaps, hfront, hframes, hops⟩ :
      u.swapCount = s.swapCount ∧ u.frontSel = s.frontSel ∧ u.frameCount = s.frameCount ∧ u.prog = ops := by
    rw [hran.swapCount, hran.frontSel, hran.frameCount, hran.prog, ← hc]
    exact ⟨rfl, rfl, rfl, rfl⟩
  have hn : c.prof.totalLines.toNat - c.lineCounter.toNat = n := by rw [← hc]
  rw [hn] at hrun
  refine ⟨_, ⟨c, hissue, runsTo_succ_of_step hrun hlast⟩, ?swaps, ?front, ?frames, ?line, ?ready, rfl, rfl, rfl, ?prog, rfl⟩
  case swaps =>
    change (advance u).swapCount = _
    rw [hadv, ← hswaps]
  case front =>
    change (advance u).frontSel = _
    rw [hadv, ← hfront]
  case frames =>
    change (advance u).frameCount = _
    rw [hadv, ← hframes]
  case line =>
    change (advance u).lineCounter = _
    rw [hadv]
  case ready =>
    change (advance u).ready = _
    rw [hadv]
  case prog => exact (ticked_prog u (.producer :: rest) l).trans hops

end Sys2Proof.Machine
end
